-- ==== Sys2Proof/Word.lean ====
section
/-! DEFINITION. The two widths of the machine: a stack cell and a grid cell. -/

namespace Sys2Proof

/-- A stack cell: `W = 32` bits, two's complement (00_scope R4, 10_state R11). -/
abbrev Word := BitVec 32

/-- A grid cell and a character code: 8 bits (20_memory R31). -/
abbrev Byte := BitVec 8

end Sys2Proof
end

