-- ==== Sys2Proof/Syntax.lean ====
section
/-! DEFINITION. The instructions: one constructor for each of the 29 mnemonics of the opcode table
(30_encoding R55, R57). The ten `PUSHD` rows differ only in the digit and the eight `STRPUSH` rows only in the
code pushed, so each of these mnemonics is one constructor with that operand (30_encoding R54, R58). -/

namespace Sys2Proof

/-- An instruction (30_encoding R55). -/
inductive Instr where
  /-- `@` -/
  | exit
  /-- space -/
  | blank
  /-- `\` -/
  | swap
  /-- `:` -/
  | dup
  /-- `$` -/
  | pop
  /-- `,` -/
  | outc
  /-- `.` -/
  | outi
  /-- `+` -/
  | add
  /-- `-` -/
  | sub
  /-- `*` -/
  | mul
  /-- `/` -/
  | div
  /-- `%` -/
  | mod
  /-- `!` -/
  | not
  /-- backquote -/
  | gt
  /-- `>` -/
  | right
  /-- `<` -/
  | left
  /-- `^` -/
  | up
  /-- `v` -/
  | down
  /-- `?` -/
  | rand
  /-- `_` -/
  | hif
  /-- `|` -/
  | vif
  /-- `g` -/
  | get
  /-- `p` -/
  | put
  /-- `&` -/
  | ini
  /-- `~` -/
  | inc
  /-- `#` -/
  | bridge
  /-- `"` -/
  | quote
  /-- `0` to `9`: the digit `d = c[3:0]` -/
  | pushd (d : BitVec 4)
  /-- any code but `"` in string mode: the code itself -/
  | strpush (c : Byte)
  deriving DecidableEq, Repr

end Sys2Proof
end

