-- ==== Sys2Proof/WellFormed.lean ====
section
/-! DEFINITION. Which instructions have an encoding: a digit is 0..9 (30_encoding R54) and the code pushed in
string mode is not the quote (30_encoding R53). -/

namespace Sys2Proof

/-- The instruction has an encoding (30_encoding R53, R54); every other operation has no operand to check. -/
def Instr.wellFormed : Instr → Bool
  | .exit | .blank | .swap | .dup | .pop | .outc | .outi => true
  | .add | .sub | .mul | .div | .mod | .not | .gt => true
  | .right | .left | .up | .down | .rand | .hif | .vif | .bridge => true
  | .get | .put | .ini | .inc | .quote => true
  | .pushd d => decide (d.toNat ≤ 9)
  | .strpush c => decide (c ≠ 0x22)

end Sys2Proof
end

