-- ==== Sys2Proof/Decode.lean ====
section
/-! DEFINITION. Classification of the fetched code (30_encoding R52 to R56), the opcode table as match and mask
rows (30_encoding R58), and the encoder. -/

namespace Sys2Proof

/-- What classification answers: an operation, or the code that has none (30_encoding R52, R56). -/
inductive Classified where
  /-- The code has this meaning. -/
  | operation (i : Instr)
  /-- Outside string mode the code has no operation: the step raises UnknownInstruction (30_encoding R56). -/
  | unknownInstruction (c : Byte)
  deriving DecidableEq, Repr

/-- The 27 characters of the operation table, in its order (30_encoding R55). -/
def operationTable : List (Byte × Instr) :=
  [(0x40, .exit), (0x20, .blank), (0x5C, .swap), (0x3A, .dup), (0x24, .pop), (0x2C, .outc), (0x2E, .outi)]
  ++ [(0x2B, .add), (0x2D, .sub), (0x2A, .mul), (0x2F, .div), (0x25, .mod), (0x21, .not), (0x60, .gt)]
  ++ [(0x3E, .right), (0x3C, .left), (0x5E, .up), (0x76, .down), (0x3F, .rand), (0x5F, .hif), (0x7C, .vif)]
  ++ [(0x67, .get), (0x70, .put), (0x26, .ini), (0x7E, .inc), (0x23, .bridge), (0x22, .quote)]

/-- `classify(STRMODE, c)`: string-mode data first, then the digits, then the operation table
(30_encoding R52). -/
def decode (strmode : Bool) (c : Byte) : Classified :=
  if strmode = true ∧ c ≠ 0x22 then .operation (.strpush c)
  else if 0x30 ≤ c.toNat ∧ c.toNat ≤ 0x39 then .operation (.pushd (c.setWidth 4))
  else
    match operationTable.lookup c with
    | some i => .operation i
    | none => .unknownInstruction c

/-- The 9-bit decode key `(STRMODE, c[7:0])` with `STRMODE` as bit 8 (30_encoding R52). -/
abbrev Key := BitVec 9

/-- The key of a mode bit and a code. -/
def keyOf (strmode : Bool) (c : Byte) : Key := BitVec.ofBool strmode ++ c

/-- Classification of a key. -/
def decodeKey (k : Key) : Classified := decode (k.getLsbD 8) (k.setWidth 8)

/-- The instruction of a key given as a number: bit 0 is the least significant bit of the code, bit 8 is
`STRMODE`. A number with a bit above bit 8 is no key. -/
def decodeTableWord (_nbits w : Nat) : Option Instr :=
  if w < 512 then
    match decodeKey (BitVec.ofNat 9 w) with
    | .operation i => some i
    | .unknownInstruction _ => none
  else none

/-- The code `c` of an instruction's cell (30_encoding R53 to R55). -/
def encodeCell : Instr → Byte
  | .exit => 0x40
  | .blank => 0x20
  | .swap => 0x5C
  | .dup => 0x3A
  | .pop => 0x24
  | .outc => 0x2C
  | .outi => 0x2E
  | .add => 0x2B
  | .sub => 0x2D
  | .mul => 0x2A
  | .div => 0x2F
  | .mod => 0x25
  | .not => 0x21
  | .gt => 0x60
  | .right => 0x3E
  | .left => 0x3C
  | .up => 0x5E
  | .down => 0x76
  | .rand => 0x3F
  | .hif => 0x5F
  | .vif => 0x7C
  | .get => 0x67
  | .put => 0x70
  | .ini => 0x26
  | .inc => 0x7E
  | .bridge => 0x23
  | .quote => 0x22
  | .pushd d => 0x30 + d.setWidth 8
  | .strpush c => c

/-- Does the instruction's encoding admit this value of `STRMODE`? Only `QUOTE` admits both
(30_encoding R52, R58). -/
def admitsMode : Instr → Bool → Bool
  | .quote, _ => true
  | .strpush _, m => m
  | .exit, m | .blank, m | .swap, m | .dup, m | .pop, m | .outc, m | .outi, m => !m
  | .add, m | .sub, m | .mul, m | .div, m | .mod, m | .not, m | .gt, m => !m
  | .right, m | .left, m | .up, m | .down, m | .rand, m | .hif, m | .vif, m | .bridge, m => !m
  | .get, m | .put, m | .ini, m | .inc, m | .pushd _, m => !m

/-- The key of a well-formed instruction under a mode bit that its encoding admits. -/
def encode (strmode : Bool) (i : Instr) : Key := keyOf strmode (encodeCell i)

/-- One row of the opcode table: the keys `k` with `k &&& mask = match`, and the instruction such a key stands
for, given its code (30_encoding R58). -/
structure OpcodeRow where
  matchBits : Key
  mask : Key
  instr : Byte → Instr

/-- The row selects the key. -/
def OpcodeRow.selects (r : OpcodeRow) (k : Key) : Bool := k &&& r.mask == r.matchBits

/-- The rows of the operations other than `QUOTE`: mask 0x1FF, `STRMODE` = 0 (30_encoding R58). -/
def operationRows : List OpcodeRow :=
  [⟨0x040, 0x1FF, fun _ => .exit⟩, ⟨0x020, 0x1FF, fun _ => .blank⟩, ⟨0x05C, 0x1FF, fun _ => .swap⟩,
   ⟨0x03A, 0x1FF, fun _ => .dup⟩, ⟨0x024, 0x1FF, fun _ => .pop⟩, ⟨0x02C, 0x1FF, fun _ => .outc⟩,
   ⟨0x02E, 0x1FF, fun _ => .outi⟩]
  ++ [⟨0x02B, 0x1FF, fun _ => .add⟩, ⟨0x02D, 0x1FF, fun _ => .sub⟩, ⟨0x02A, 0x1FF, fun _ => .mul⟩,
   ⟨0x02F, 0x1FF, fun _ => .div⟩, ⟨0x025, 0x1FF, fun _ => .mod⟩, ⟨0x021, 0x1FF, fun _ => .not⟩,
   ⟨0x060, 0x1FF, fun _ => .gt⟩]
  ++ [⟨0x03E, 0x1FF, fun _ => .right⟩, ⟨0x03C, 0x1FF, fun _ => .left⟩, ⟨0x05E, 0x1FF, fun _ => .up⟩,
   ⟨0x076, 0x1FF, fun _ => .down⟩, ⟨0x03F, 0x1FF, fun _ => .rand⟩, ⟨0x05F, 0x1FF, fun _ => .hif⟩,
   ⟨0x07C, 0x1FF, fun _ => .vif⟩]
  ++ [⟨0x067, 0x1FF, fun _ => .get⟩, ⟨0x070, 0x1FF, fun _ => .put⟩, ⟨0x026, 0x1FF, fun _ => .ini⟩,
   ⟨0x07E, 0x1FF, fun _ => .inc⟩, ⟨0x023, 0x1FF, fun _ => .bridge⟩]

/-- The row of `QUOTE`, which does not look at `STRMODE` (30_encoding R58). -/
def quoteRows : List OpcodeRow := [⟨0x022, 0x0FF, fun _ => .quote⟩]

/-- The ten rows of `PUSHD` (30_encoding R54, R58). -/
def digitRows : List OpcodeRow :=
  [⟨0x030, 0x1FF, fun _ => .pushd 0⟩, ⟨0x031, 0x1FF, fun _ => .pushd 1⟩, ⟨0x032, 0x1FF, fun _ => .pushd 2⟩,
   ⟨0x033, 0x1FF, fun _ => .pushd 3⟩, ⟨0x034, 0x1FF, fun _ => .pushd 4⟩]
  ++ [⟨0x035, 0x1FF, fun _ => .pushd 5⟩, ⟨0x036, 0x1FF, fun _ => .pushd 6⟩, ⟨0x037, 0x1FF, fun _ => .pushd 7⟩,
   ⟨0x038, 0x1FF, fun _ => .pushd 8⟩, ⟨0x039, 0x1FF, fun _ => .pushd 9⟩]

/-- The eight rows of `STRPUSH`, one per bit at which the code first differs from 0x22 (30_encoding R58). -/
def stringRows : List OpcodeRow :=
  [⟨0x180, 0x180, .strpush⟩, ⟨0x140, 0x1C0, .strpush⟩, ⟨0x100, 0x1E0, .strpush⟩, ⟨0x130, 0x1F0, .strpush⟩]
  ++ [⟨0x128, 0x1F8, .strpush⟩, ⟨0x124, 0x1FC, .strpush⟩, ⟨0x120, 0x1FE, .strpush⟩, ⟨0x123, 0x1FF, .strpush⟩]

/-- The 45 rows of the opcode table (30_encoding R58). -/
def opcodeRows : List OpcodeRow := operationRows ++ quoteRows ++ digitRows ++ stringRows

end Sys2Proof
end

