-- ==== Sys2Proof/Config.lean ====
section
/-! DEFINITION. The parameters of 00_scope R4 that have a value, and the one free value of the model.
`DEPTH` is left open by the spec and is a field of State (log 2). -/

namespace Sys2Proof

/-- Columns of the grid (00_scope R4). -/
def Config.gridW : Nat := 80

/-- Rows of the grid (00_scope R4). -/
def Config.gridH : Nat := 25

/-- Cells of the grid: linear addresses are 0..1999 (20_memory R33). -/
def Config.gridCells : Nat := Config.gridW * Config.gridH

/-- `DIV0_QUOT`: what `/` pushes when the divisor is 0 (00_scope R4, 41_arithmetic R94). -/
def Config.div0Quot : Word := 0

/-- `DIV0_REM`: what `%` pushes when the divisor is 0 (00_scope R4, 41_arithmetic R94). -/
def Config.div0Rem : Word := 0

/-- `EOF_CHAR`: what `~` pushes at the end of input, -1 (00_scope R4, 44_system_io R127). -/
def Config.eofChar : Word := BitVec.ofInt 32 (-1)

/-- `NOINT_VALUE`: what `&` pushes when no integer can be had (00_scope R4, 44_system_io R125). -/
def Config.nointValue : Word := 0

/-- What a grid cell reads as when memory does not list it: the code of a space.
DESIGN CHOICE (log 1), unsafe: the spec gives no contents before a load; 32 is what the loader's
contract gives every cell outside the program text (70_reset_and_hazards R166). -/
def Config.unlistedCell : Byte := 0x20

/-- The `n`-th random draw that the host has not set beforehand: a FREE VALUE, one of 0..3, of which
nothing is known (10_state R26; log 4). -/
opaque Config.freeDraw : Nat → BitVec 2

end Sys2Proof
end

