-- ==== Sys2Proof/Machine/State.lean ====
section
/-! DEFINITION. The machine's state as plain data (10_state R10, R23 to R27), and how a step can stop. -/

namespace Sys2Proof.Machine

/-- The direction register's four values (10_state R14). -/
inductive Dir where
  | right
  | left
  | up
  | down
  deriving DecidableEq, Repr

/-- The three faults that end a run (60_exceptions R140). `FKIND` is an `Option` of this: `none` is code 0. -/
inductive FaultKind where
  /-- `FKIND` = 1: the fetched code has no operation (60_exceptions R141). -/
  | unknownInstruction
  /-- `FKIND` = 2: `g` or `p` with a coordinate outside the grid (60_exceptions R142). -/
  | outOfBounds
  /-- `FKIND` = 3: a push that finds `SP = DEPTH` (60_exceptions R143). -/
  | stackOverflow
  deriving DecidableEq, Repr

/-- `DEPTH`, the capacity of the stack: a number of cells, or no bound (00_scope R4; log 2). -/
inductive Depth where
  | unbounded
  | cells (n : Nat)
  deriving DecidableEq, Repr

/-- A token the core emits (10_state R24). -/
inductive OutToken where
  /-- `CHAR(v)`, from `,` -/
  | char (v : Word)
  /-- `INT(v)`, from `.` -/
  | int (v : Word)
  deriving DecidableEq, Repr

/-- The host's answer to an integer request (10_state R25). -/
inductive IntToken where
  /-- `INT(n)` -/
  | int (n : Word)
  /-- `NONE`: absent or invalid -/
  | absent
  deriving DecidableEq, Repr

/-- The host's answer to a character request (10_state R25). -/
inductive CharToken where
  /-- `CHAR(c)`, 0 ≤ c ≤ 255 -/
  | char (c : Byte)
  /-- `NONE`: end of input -/
  | absent
  deriving DecidableEq, Repr

/-- `in_kind`: which kind of token an input step asks for (10_state R23). -/
inductive InKind where
  | char
  | int
  deriving DecidableEq, Repr

/-- The grid: pairs (address, byte), address `y*80 + x`, in the canonical form `Memory.wf`
(20_memory R31, R33). -/
abbrev Memory := List Host.Cell

/-- The state. The first nine fields are the architectural state of 10_state R10 (`SP` is the length of `stk`);
then the open parameter `DEPTH` (log 2), what stands on the core's ports (10_state R23 to R26; log 3, 4, 7, 11, 13),
and the model's own counter (log 4) and record that a run has begun (log 18). -/
structure State where
  /-- `STK`, the top of the stack first (10_state R11; log 12). -/
  stk : List Word
  /-- `PCX`, 0..79 (10_state R13). -/
  pcx : Fin 80
  /-- `PCY`, 0..24 (10_state R13). -/
  pcy : Fin 25
  /-- `DIR` (10_state R14). -/
  dir : Dir
  /-- `STRMODE` (10_state R15). -/
  strmode : Bool
  /-- `HALTED` (10_state R16). -/
  halted : Bool
  /-- `FKIND` (10_state R17). -/
  fkind : Option FaultKind
  /-- `FCHAR` (10_state R18). -/
  fchar : Byte
  /-- `GRID` (10_state R19). -/
  grid : Memory
  /-- `DEPTH` (00_scope R4); no step changes it. -/
  depth : Depth
  /-- The level of the `run` port (10_state R23, 70_reset_and_hazards R167). -/
  run : Bool
  /-- The tokens emitted since reset, oldest first (10_state R24). -/
  out : List OutToken
  /-- The host's answers to `&` that no step has taken yet, oldest first (10_state R25). -/
  intIn : List IntToken
  /-- The host's answers to `~` that no step has taken yet, oldest first (10_state R25). -/
  charIn : List CharToken
  /-- The input step at hand: its request has been made and the step has not completed; `none` between steps
  (`in_req` and `in_kind` of 10_state R23, 44_system_io R129; log 13). -/
  request : Option InKind
  /-- The random draws the host has set and no step has taken yet, oldest first (10_state R26). -/
  rnd : List (BitVec 2)
  /-- The model's own: how many free draws have been taken (log 4). -/
  draws : Nat
  /-- The model's own: a step has been taken since `RESET` (log 18). -/
  begun : Bool
  deriving DecidableEq, Repr

/-- The reasons a step of the model can stop with a fault: none. The machine's own three faults are not outcomes
of this kind: taking one is a next state with the fault record written (60_exceptions R144; log 8). -/
inductive Fault where
  deriving DecidableEq, Repr

/-- The reasons a step of the model can be refused. -/
inductive Refusal where
  /-- Raised by an arm of `exec` whose instruction has no meaning yet; safe. No arm of this model is such an arm. -/
  | notModelled (mnemonic : String)
  deriving DecidableEq, Repr

/-- The state after `RESET` (10_state R27), with nothing loaded into the grid. What the spec does not give is a
DESIGN CHOICE: the grid (log 1), `depth` (log 2), the input lists (log 3), `request` (log 13), `begun` (log 18), `rnd` and `draws` (log 4), `run`
(log 7). -/
def State.reset : State where
  stk := []
  pcx := 0
  pcy := 0
  dir := .right
  strmode := false
  halted := false
  fkind := none
  fchar := 0
  grid := []
  depth := .unbounded
  run := true
  out := []
  intIn := []
  charIn := []
  request := none
  rnd := []
  draws := 0
  begun := false

end Sys2Proof.Machine
end

