-- ==== Sys2Proof/Machine/Ops.lean ====
section
/-! DEFINITION. The named operations over the state: the grid memory, the stack, the advance, the tokens, the
draw, taking a fault, and how an instruction's effect ends its step. -/

namespace Sys2Proof.Machine

/-! ### The grid memory (20_memory R33, R34) -/

/-- The canonical form from address `lo` on: addresses strictly rising and inside the grid, and no entry equal to
what an unlisted cell reads as. -/
def Memory.wfFrom : Nat → Memory → Bool
  | _, [] => true
  | lo, (a, b) :: m =>
    decide (lo ≤ a) && decide (a < Config.gridCells) && decide (b ≠ Config.unlistedCell) && Memory.wfFrom (a + 1) m

/-- The canonical form of memory: every grid has exactly one. -/
def Memory.wf (m : Memory) : Bool := Memory.wfFrom 0 m

/-- `MemRead(addr, 1)` (20_memory R33). -/
def Memory.read : Memory → Nat → Byte
  | [], _ => Config.unlistedCell
  | (a, b) :: m, addr => if a = addr then b else Memory.read m addr

/-- Put an entry in front, unless it says what an unlisted cell reads as anyway. -/
def Memory.consCell (addr : Nat) (v : Byte) (m : Memory) : Memory :=
  if v = Config.unlistedCell then m else (addr, v) :: m

/-- `MemWrite(addr, 1, v)` (20_memory R34). -/
def Memory.write : Memory → Nat → Byte → Memory
  | [], addr, v => Memory.consCell addr v []
  | (a, b) :: m, addr, v =>
    if addr < a then Memory.consCell addr v ((a, b) :: m)
    else if addr = a then Memory.consCell addr v m
    else (a, b) :: Memory.write m addr v

/-- The linear address `y*80 + x` of a cell of the grid (20_memory R33). -/
def cellAddr (x : Fin 80) (y : Fin 25) : Nat := y.val * Config.gridW + x.val

/-- The code of the cell in column `x` of row `y` (20_memory R31). -/
def State.cell (s : State) (x : Fin 80) (y : Fin 25) : Byte := s.grid.read (cellAddr x y)

/-- The bounds check of `GridRead` and `GridWrite` on the full signed coordinates: the linear address, or nothing
for OutOfBounds; it never wraps (20_memory R35, R36). -/
def gridAddr (x y : Word) : Option Nat :=
  if x.toInt < 0 ∨ (Config.gridW : Int) ≤ x.toInt ∨ y.toInt < 0 ∨ (Config.gridH : Int) ≤ y.toInt then none
  else some (y.toInt.toNat * Config.gridW + x.toInt.toNat)

/-- `v mod 256`, the low 8 bits that a `PUT` stores (20_memory R36). -/
def lowByte (v : Word) : Byte := v.setWidth 8

/-- `zext_W(c)`: a code as the integer 0..255 (00_scope section 5). -/
def zextW (c : Byte) : Word := c.setWidth 32

/-! ### One field at a time -/

def State.setStk (s : State) (l : List Word) : State := { s with stk := l }

def State.setDir (s : State) (d : Dir) : State := { s with dir := d }

def State.setStrmode (s : State) (b : Bool) : State := { s with strmode := b }

def State.setHalted (s : State) (b : Bool) : State := { s with halted := b }

def State.setGrid (s : State) (m : Memory) : State := { s with grid := m }

def State.setIntIn (s : State) (l : List IntToken) : State := { s with intIn := l }

def State.setCharIn (s : State) (l : List CharToken) : State := { s with charIn := l }

def State.setRequest (s : State) (r : Option InKind) : State := { s with request := r }

def State.setBegun (s : State) (b : Bool) : State := { s with begun := b }

/-- `emit(kind, v)`: append one token to the output (10_state R24). -/
def State.emit (s : State) (t : OutToken) : State := { s with out := s.out ++ [t] }

/-- The fault record of a fault whose step fetched `c`; nothing else changes (60_exceptions R144). -/
def State.raise (s : State) (k : FaultKind) (c : Byte) : State := { s with fkind := some k, fchar := c }

/-! ### How an operation ends -/

/-- What the operation part of a step does, before the step's advance: it is done, it raises a fault, or it has
asked for a token of some kind and waits. -/
inductive Effect where
  | done (s : State)
  | raised (k : FaultKind)
  | held (k : InKind)
  deriving DecidableEq, Repr

/-- Go on with `f` if the effect so far is done. -/
def Effect.andThen (e : Effect) (f : State → Effect) : Effect :=
  match e with
  | .done s => f s
  | .raised k => .raised k
  | .held k => .held k

/-! ### The stack (40_stack R70 to R73) -/

/-- `SP`, the number of cells held (10_state R11). -/
def State.sp (s : State) : Nat := s.stk.length

/-- The number `k` is `DEPTH`; never so when `DEPTH` has no bound. -/
def Depth.isReached : Depth → Nat → Bool
  | .unbounded, _ => false
  | .cells n, k => decide (k = n)

/-- `SP = DEPTH`: the stack is full (40_stack R70). -/
def State.full (s : State) : Bool := s.depth.isReached s.sp

/-- `push(v)`: on top, or StackOverflow when the stack is full (40_stack R70). -/
def push (v : Word) (s : State) : Effect :=
  if s.full then .raised .stackOverflow else .done (s.setStk (v :: s.stk))

/-- `pop()`: the top value and the stack without it; 0 and no change when the stack is empty (40_stack R71). -/
def pop (s : State) : Word × State :=
  match s.stk with
  | [] => (0, s)
  | v :: rest => (v, s.setStk rest)

/-- `swap()`: pop `a`, pop `b`, push `a`, push `b` (40_stack R72). -/
def swap (s : State) : Effect :=
  let p := pop s
  let q := pop p.2
  (push p.1 q.2).andThen (push q.1)

/-- `duplicate()`: pop `a`, push `a` twice (40_stack R73). -/
def duplicate (s : State) : Effect :=
  let p := pop s
  (push p.1 p.2).andThen (push p.1)

/-! ### The program counter -/

/-- `advance()`: one cell in direction `DIR`, wrapping at every edge (42_pc_control R100). The arithmetic is that of
`Fin 80` and `Fin 25`, which is modulo 80 and 25. -/
def State.advance (s : State) : State :=
  match s.dir with
  | .right => { s with pcx := s.pcx + 1 }
  | .left => { s with pcx := s.pcx + 79 }
  | .up => { s with pcy := s.pcy + 24 }
  | .down => { s with pcy := s.pcy + 1 }

/-- The direction a code stands for: 0 right, 1 left, 2 up, 3 down (10_state R14). -/
def Dir.ofCode (r : BitVec 2) : Dir :=
  if r = 0 then .right else if r = 1 then .left else if r = 2 then .up else .down

/-- The 2-bit code of a direction (10_state R14). -/
def Dir.code : Dir → BitVec 2
  | .right => 0
  | .left => 1
  | .up => 2
  | .down => 3

/-- `draw_dir()`: the draw the host has set, else a free value (10_state R26; log 4). -/
def drawDir (s : State) : BitVec 2 × State :=
  match s.rnd with
  | [] => (Config.freeDraw s.draws, { s with draws := s.draws + 1 })
  | r :: rest => (r, { s with rnd := rest })

/-! ### Fetching, taking a fault, ending a step -/

/-- The fetch: the code of the cell under the program counter; it cannot fault (30_encoding R60,
20_memory R47). -/
def State.fetch (s : State) : Byte := s.cell s.pcx s.pcy

/-- A step is enabled: not halted, not faulted, and `run = 1` (30_encoding R61). -/
def State.enabled (s : State) : Bool := !s.halted && s.fkind.isNone && s.run

/-- Taking a fault, shared by all three: from the state BEFORE the step, so that nothing of the step is kept; the
fault record is written, and there is no advance and no handler (60_exceptions R144). There is no return from it:
only `RESET` clears the record (60_exceptions R145). -/
def takeFault (k : FaultKind) (c : Byte) (s : State) : Host.Outcome State Fault Refusal := .next (s.raise k c)

/-- How the step of the instruction with code `c`, begun in `s`, ends: an effect that is done is followed by the
advance with the direction it left (30_encoding R60); a fault keeps nothing of the step; of a step that
waits only the request stands, with no element of the architectural state changed (44_system_io R129; log 5). -/
def finish (c : Byte) (s : State) (e : Effect) : Host.Outcome State Fault Refusal :=
  match e with
  | .done t => .next t.advance
  | .raised k => takeFault k c s
  | .held k => .next (s.setRequest (some k))

/-- Lay the code of a table key where the next step fetches, with the key's `STRMODE`, in a core that takes that
step: running, not halted, not faulted, with no input step at hand (log 17). -/
def State.placeKey (s : State) (w : Nat) : State :=
  { s with
    grid := s.grid.write (cellAddr s.pcx s.pcy) (BitVec.ofNat 8 w)
    strmode := w.testBit 8
    halted := false
    fkind := none
    fchar := 0
    run := true
    request := none }

end Sys2Proof.Machine
end

