-- ==== Sys2Proof/Machine/Operands.lean ====
section
/-! DEFINITION. The operand forms, and the shared shapes of instructions over them. Every operand is popped from
the stack, is the digit of the instruction's own code, or is the code itself (10_state R12, 30_encoding R54). -/

namespace Sys2Proof.Machine

/-- The digit `d = c[3:0]` as a stack value, zero-extended (30_encoding R54). -/
def digitValue (d : BitVec 4) : Word := d.setWidth 32

/-- The `n`-th operand of a state, counted from the top at 0: a cell of the stack, or the phantom zero
(10_state R12). -/
def State.operand (s : State) (n : Nat) : Word := s.stk.getD n 0

/-- Pop `rhs`, pop `lhs`, push `f lhs rhs` (41_arithmetic R85). -/
def binary (f : Word → Word → Word) (s : State) : Effect :=
  let r := pop s
  let l := pop r.2
  push (f l.1 r.1) l.2

/-- Pop `v`, push `f v`. -/
def unary (f : Word → Word) (s : State) : Effect :=
  let v := pop s
  push (f v.1) v.2

/-- Pop `v` and set the direction by it (42_pc_control R107, R108). -/
def popToDir (f : Word → Dir) (s : State) : Effect :=
  let v := pop s
  .done (v.2.setDir (f v.1))

/-- Pop `v` and emit a token of it (44_system_io R123, R124). -/
def popToToken (f : Word → OutToken) (s : State) : Effect :=
  let v := pop s
  .done (v.2.emit (f v.1))

/-- The value an answered integer request pushes (44_system_io R125). -/
def IntToken.value : IntToken → Word
  | .int n => n
  | .absent => Config.nointValue

/-- The value an answered character request pushes (44_system_io R127). -/
def CharToken.value : CharToken → Word
  | .char c => zextW c
  | .absent => Config.eofChar

end Sys2Proof.Machine
end

