-- ==== Sys2Proof/Machine/Flags.lean ====
section
/-! DEFINITION. There are no condition codes (10_state R20): comparison and logic deliver a stack value 0 or 1,
and the conditional instructions test a popped value. -/

namespace Sys2Proof.Machine

/-- The stack value of a condition: 1 or 0 (10_state R20). -/
def truthValue (b : Bool) : Word := if b then 1 else 0

/-- `v = 0`, the test of `!`, `_` and `|` (41_arithmetic R91, 42_pc_control R107, R108). -/
def isZero (v : Word) : Bool := decide (v = 0)

/-- `lhs > rhs` as signed integers (41_arithmetic R92). -/
def isGreater (lhs rhs : Word) : Bool := decide (rhs.toInt < lhs.toInt)

end Sys2Proof.Machine
end

