-- ==== Sys2Proof/Machine/Arith.lean ====
section
/-! DEFINITION. The arithmetic, logic and comparison instructions (41_arithmetic R85 to R94): a result is computed
in the integers and then reduced by `wrap_W`. -/

namespace Sys2Proof.Machine

/-- `wrap_W(n)`: the value of `W` bits that is congruent to `n` modulo 2^W (00_scope section 5). -/
def wrapW (n : Int) : Word := BitVec.ofInt 32 n

def addWords (lhs rhs : Word) : Word := wrapW (lhs.toInt + rhs.toInt)

def subWords (lhs rhs : Word) : Word := wrapW (lhs.toInt - rhs.toInt)

def mulWords (lhs rhs : Word) : Word := wrapW (lhs.toInt * rhs.toInt)

/-- The quotient rounded toward zero; `DIV0_QUOT` for the divisor 0 (41_arithmetic R89, R94). -/
def divWords (lhs rhs : Word) : Word :=
  if rhs = 0 then Config.div0Quot else wrapW (lhs.toInt.tdiv rhs.toInt)

/-- The remainder `lhs - rhs * tdiv(lhs, rhs)`; `DIV0_REM` for the divisor 0 (41_arithmetic R90, R94). -/
def modWords (lhs rhs : Word) : Word :=
  if rhs = 0 then Config.div0Rem else wrapW (lhs.toInt - rhs.toInt * lhs.toInt.tdiv rhs.toInt)

/-- `ADD` (41_arithmetic R86). -/
def execAdd (s : State) : Host.Outcome State Fault Refusal :=
  finish (encodeCell .add) s (binary addWords s)

/-- `SUB` (41_arithmetic R87). -/
def execSub (s : State) : Host.Outcome State Fault Refusal :=
  finish (encodeCell .sub) s (binary subWords s)

/-- `MUL` (41_arithmetic R88). -/
def execMul (s : State) : Host.Outcome State Fault Refusal :=
  finish (encodeCell .mul) s (binary mulWords s)

/-- `DIV` (41_arithmetic R89). -/
def execDiv (s : State) : Host.Outcome State Fault Refusal :=
  finish (encodeCell .div) s (binary divWords s)

/-- `MOD` (41_arithmetic R90). -/
def execMod (s : State) : Host.Outcome State Fault Refusal :=
  finish (encodeCell .mod) s (binary modWords s)

/-- `NOT` (41_arithmetic R91). -/
def execNot (s : State) : Host.Outcome State Fault Refusal :=
  finish (encodeCell .not) s (unary (fun v => truthValue (isZero v)) s)

/-- `GT` (41_arithmetic R92). -/
def execGt (s : State) : Host.Outcome State Fault Refusal :=
  finish (encodeCell .gt) s (binary (fun lhs rhs => truthValue (isGreater lhs rhs)) s)

end Sys2Proof.Machine
end

