-- ==== Sys2Proof/Machine/Control.lean ====
section
/-! DEFINITION. The control-transfer instructions (42_pc_control R102 to R109). -/

namespace Sys2Proof.Machine

/-- `RIGHT` (42_pc_control R102). -/
def execRight (s : State) : Host.Outcome State Fault Refusal :=
  finish (encodeCell .right) s (.done (s.setDir .right))

/-- `LEFT` (42_pc_control R103). -/
def execLeft (s : State) : Host.Outcome State Fault Refusal :=
  finish (encodeCell .left) s (.done (s.setDir .left))

/-- `UP` (42_pc_control R104). -/
def execUp (s : State) : Host.Outcome State Fault Refusal :=
  finish (encodeCell .up) s (.done (s.setDir .up))

/-- `DOWN` (42_pc_control R105). -/
def execDown (s : State) : Host.Outcome State Fault Refusal :=
  finish (encodeCell .down) s (.done (s.setDir .down))

/-- `RAND` (42_pc_control R106). -/
def execRand (s : State) : Host.Outcome State Fault Refusal :=
  let r := drawDir s
  finish (encodeCell .rand) s (.done (r.2.setDir (Dir.ofCode r.1)))

/-- `HIF` (42_pc_control R107). -/
def execHif (s : State) : Host.Outcome State Fault Refusal :=
  finish (encodeCell .hif) s (popToDir (fun v => if isZero v then .right else .left) s)

/-- `VIF` (42_pc_control R108). -/
def execVif (s : State) : Host.Outcome State Fault Refusal :=
  finish (encodeCell .vif) s (popToDir (fun v => if isZero v then .down else .up) s)

/-- `BRIDGE`: the extra advance; the step's own follows (42_pc_control R109). -/
def execBridge (s : State) : Host.Outcome State Fault Refusal :=
  finish (encodeCell .bridge) s (.done s.advance)

end Sys2Proof.Machine
end

