-- ==== Sys2Proof/Machine/GridAccess.lean ====
section
/-! DEFINITION. The load and the store (43_grid_access R115, R116). -/

namespace Sys2Proof.Machine

/-- `GET`'s operation: pop `y`, pop `x`, push the cell's code (43_grid_access R115). -/
def gridGet (s : State) : Effect :=
  let y := pop s
  let x := pop y.2
  match gridAddr x.1 y.1 with
  | none => .raised .outOfBounds
  | some a => push (zextW (x.2.grid.read a)) x.2

/-- `PUT`'s operation: pop `y`, pop `x`, pop the value, store its low 8 bits (43_grid_access R116). -/
def gridPut (s : State) : Effect :=
  let y := pop s
  let x := pop y.2
  let v := pop x.2
  match gridAddr x.1 y.1 with
  | none => .raised .outOfBounds
  | some a => .done (v.2.setGrid (v.2.grid.write a (lowByte v.1)))

/-- `GET` (43_grid_access R115). -/
def execGet (s : State) : Host.Outcome State Fault Refusal :=
  finish (encodeCell .get) s (gridGet s)

/-- `PUT` (43_grid_access R116). -/
def execPut (s : State) : Host.Outcome State Fault Refusal :=
  finish (encodeCell .put) s (gridPut s)

end Sys2Proof.Machine
end

