-- ==== Sys2Proof/Machine/Stack.lean ====
section
/-! DEFINITION. The stack instructions (40_stack R74 to R78). -/

namespace Sys2Proof.Machine

/-- `PUSHD` (40_stack R74). -/
def execPushd (d : BitVec 4) (s : State) : Host.Outcome State Fault Refusal :=
  finish (encodeCell (.pushd d)) s (push (digitValue d) s)

/-- `STRPUSH` (40_stack R75). -/
def execStrpush (c : Byte) (s : State) : Host.Outcome State Fault Refusal :=
  finish (encodeCell (.strpush c)) s (push (zextW c) s)

/-- `SWAP` (40_stack R76). -/
def execSwap (s : State) : Host.Outcome State Fault Refusal :=
  finish (encodeCell .swap) s (swap s)

/-- `DUP` (40_stack R77). -/
def execDup (s : State) : Host.Outcome State Fault Refusal :=
  finish (encodeCell .dup) s (duplicate s)

/-- `POP` (40_stack R78). -/
def execPop (s : State) : Host.Outcome State Fault Refusal :=
  finish (encodeCell .pop) s (.done (pop s).2)

end Sys2Proof.Machine
end

