-- ==== Sys2Proof/Machine/System.lean ====
section
/-! DEFINITION. Exit, no-op, string mode, output and input (44_system_io R120 to R129). -/

namespace Sys2Proof.Machine

/-- The instruction that asks for a token of a kind (10_state R25). -/
def InKind.instr : InKind → Instr
  | .char => .inc
  | .int => .ini

/-- `INI`'s operation: StackOverflow before any request, then the host's answer, which ends the request, or the hold
(44_system_io R125, R129). -/
def inputInt (s : State) : Effect :=
  if s.full then .raised .stackOverflow
  else
    match s.intIn with
    | [] => .held .int
    | t :: rest => push t.value ((s.setIntIn rest).setRequest none)

/-- `INC`'s operation: as for `INI`, with a character token (44_system_io R127, R129). -/
def inputChar (s : State) : Effect :=
  if s.full then .raised .stackOverflow
  else
    match s.charIn with
    | [] => .held .char
    | t :: rest => push t.value ((s.setCharIn rest).setRequest none)

/-- `EXIT`: the step still advances (44_system_io R120). -/
def execExit (s : State) : Host.Outcome State Fault Refusal :=
  finish (encodeCell .exit) s (.done (s.setHalted true))

/-- `BLANK` (44_system_io R121). -/
def execBlank (s : State) : Host.Outcome State Fault Refusal :=
  finish (encodeCell .blank) s (.done s)

/-- `QUOTE` (44_system_io R122). -/
def execQuote (s : State) : Host.Outcome State Fault Refusal :=
  finish (encodeCell .quote) s (.done (s.setStrmode (!s.strmode)))

/-- `OUTC` (44_system_io R123). -/
def execOutc (s : State) : Host.Outcome State Fault Refusal :=
  finish (encodeCell .outc) s (popToToken .char s)

/-- `OUTI` (44_system_io R124). -/
def execOuti (s : State) : Host.Outcome State Fault Refusal :=
  finish (encodeCell .outi) s (popToToken .int s)

/-- `INI` (44_system_io R125). -/
def execIni (s : State) : Host.Outcome State Fault Refusal :=
  finish (encodeCell .ini) s (inputInt s)

/-- `INC` (44_system_io R127). -/
def execInc (s : State) : Host.Outcome State Fault Refusal :=
  finish (encodeCell .inc) s (inputChar s)

end Sys2Proof.Machine
end

