-- ==== Sys2Proof/Machine/Dispatch.lean ====
section
/-! DEFINITION. One arm per instruction (30_encoding R55). -/

namespace Sys2Proof.Machine

/-- The step of an instruction, from its operation to its advance (30_encoding R60). -/
def exec (i : Instr) (s : State) : Host.Outcome State Fault Refusal :=
  match i with
  | .exit => Sys2Proof.Machine.execExit s
  | .blank => Sys2Proof.Machine.execBlank s
  | .swap => Sys2Proof.Machine.execSwap s
  | .dup => Sys2Proof.Machine.execDup s
  | .pop => Sys2Proof.Machine.execPop s
  | .outc => Sys2Proof.Machine.execOutc s
  | .outi => Sys2Proof.Machine.execOuti s
  | .add => Sys2Proof.Machine.execAdd s
  | .sub => Sys2Proof.Machine.execSub s
  | .mul => Sys2Proof.Machine.execMul s
  | .div => Sys2Proof.Machine.execDiv s
  | .mod => Sys2Proof.Machine.execMod s
  | .not => Sys2Proof.Machine.execNot s
  | .gt => Sys2Proof.Machine.execGt s
  | .right => Sys2Proof.Machine.execRight s
  | .left => Sys2Proof.Machine.execLeft s
  | .up => Sys2Proof.Machine.execUp s
  | .down => Sys2Proof.Machine.execDown s
  | .rand => Sys2Proof.Machine.execRand s
  | .hif => Sys2Proof.Machine.execHif s
  | .vif => Sys2Proof.Machine.execVif s
  | .get => Sys2Proof.Machine.execGet s
  | .put => Sys2Proof.Machine.execPut s
  | .ini => Sys2Proof.Machine.execIni s
  | .inc => Sys2Proof.Machine.execInc s
  | .bridge => Sys2Proof.Machine.execBridge s
  | .quote => Sys2Proof.Machine.execQuote s
  | .pushd d => Sys2Proof.Machine.execPushd d s
  | .strpush c => Sys2Proof.Machine.execStrpush c s

end Sys2Proof.Machine
end

