-- ==== Sys2Proof/Machine/Step.lean ====
section
/-! DEFINITION. One step of the main loop (30_encoding R60, R61). -/

namespace Sys2Proof.Machine

/-- One step: when enabled, fetch, classify with the `STRMODE` of before the step, and do what the code says; a
code without an operation raises UnknownInstruction (30_encoding R52, R56, R60). An input step that is at hand goes
on: its fetch has been made and is not made again (44_system_io R129; log 13). A step that is taken also leaves the
record that a run has begun (log 18). When no step is enabled all state holds:
the answer is the same state (30_encoding R61; log 6). -/
def step (s : State) : Host.Outcome State Fault Refusal :=
  if s.enabled then
    match s.request with
    | some k => exec k.instr (s.setBegun true)
    | none =>
      match decode s.strmode s.fetch with
      | .operation i => exec i (s.setBegun true)
      | .unknownInstruction c => takeFault .unknownInstruction c (s.setBegun true)
  else .next s

/-- The state whose very next step fetches and runs the instruction of the table key `w` (log 17). -/
def State.withFetchWord (s : State) (_nbits w : Nat) : State := s.placeKey w

end Sys2Proof.Machine
end

