-- ==== Sys2Proof/Machine/HostPort.lean ====
section
/-! DEFINITION. What the host can do to the core and see of it: `RESET`, `LOAD`, `run`, answers, draws, the status
port, and the text of the output (10_state R23 to R26, 44_system_io R126, 60_exceptions R156,
70_reset_and_hazards R160 to R170). -/

namespace Sys2Proof.Machine

/-! ### Input requests and the condition of the core -/

/-- The step at hand waits: it has asked for a token and the host has not answered. The level of `run` has no part in
this: only an answer or `RESET` lifts the hold (44_system_io R129, 70_reset_and_hazards R167). -/
def State.holding (s : State) : Bool :=
  match s.request with
  | none => false
  | some .int => s.intIn.isEmpty
  | some .char => s.charIn.isEmpty

/-- `in_req` and `in_kind`: the request that the host has yet to answer (10_state R23, R25). -/
def State.inputRequest (s : State) : Option InKind := if s.holding then s.request else none

/-- The conditions of the core (60_exceptions R156). -/
inductive Condition where
  | running
  | holding
  | paused
  | halted
  | faulted
  deriving DecidableEq, Repr

/-- The condition a state is in; `run = 0` pauses a running core, not one that holds (60_exceptions R156,
70_reset_and_hazards R167). -/
def State.condition (s : State) : Condition :=
  if s.fkind.isSome then .faulted
  else if s.halted then .halted
  else if s.holding then .holding
  else if !s.run then .paused
  else .running

/-! ### RESET, LOAD and run -/

/-- `RESET`: every element of the architectural state but `GRID` gets its reset value, and the run's output history
starts empty (70_reset_and_hazards R160, R163, 10_state R27). The step at hand is abandoned with its request
(70_reset_and_hazards R160); answers and draws that no step has taken go with the run they were given in, and `DEPTH`,
the level of `run` and the model's counter stay (log 16). The next run has not begun (log 18). -/
def State.rst (s : State) : State :=
  { s with
    stk := []
    pcx := 0
    pcy := 0
    dir := .right
    strmode := false
    halted := false
    fkind := none
    fchar := 0
    out := []
    intIn := []
    charIn := []
    request := none
    rnd := []
    begun := false }

/-- A run is under way: a step has been taken since `RESET`, and the run has ended neither normally nor fatally
(00_scope section 7, 70_reset_and_hazards R164, R168; log 18). -/
def State.inRun (s : State) : Bool := s.begun && !s.halted && s.fkind.isNone

/-- `LOAD`: write one cell; no move of the host while `run = 1`, nor during a run, whether the core is paused or holds
(70_reset_and_hazards R165, 20_memory R45, 10_state R28). -/
def State.load (x : Fin 80) (y : Fin 25) (c : Byte) (s : State) : Option State :=
  if s.run || s.inRun then none else some (s.setGrid (s.grid.write (cellAddr x y) c))

/-- The code that a program text gives the cell (x, y): lines beyond the 25th and characters beyond the 80th are no
cell's, and every cell the text does not reach holds 32 (70_reset_and_hazards R166). -/
def textCell (lines : List (List Byte)) (x : Fin 80) (y : Fin 25) : Byte :=
  (lines.getD y.val []).getD x.val 0x20

/-- The cells of the grid, row by row. -/
def allCells : List (Fin 80 × Fin 25) :=
  (List.finRange 25).flatMap fun y => (List.finRange 80).map fun x => (x, y)

/-- Load the given cells of a program text one after the other. -/
def loadCells (lines : List (List Byte)) : List (Fin 80 × Fin 25) → State → Option State
  | [], s => some s
  | (x, y) :: cells, s => (s.load x y (textCell lines x y)).bind (loadCells lines cells)

/-- The loader: one `LOAD` for each of the 2000 cells (70_reset_and_hazards R165, R166). -/
def State.loadText (lines : List (List Byte)) (s : State) : Option State := loadCells lines allCells s

/-- The host raises or drops `run` (70_reset_and_hazards R167). -/
def State.setRun (s : State) (level : Bool) : State := { s with run := level }

/-- The moves of the host (70_reset_and_hazards R170). -/
inductive HostMove where
  | load (x : Fin 80) (y : Fin 25) (c : Byte)
  | reset
  | run (level : Bool)
  | answerInt (t : IntToken)
  | answerChar (t : CharToken)
  | draw (r : BitVec 2)
  deriving DecidableEq, Repr

/-- What a move of the host does; nothing for a move the host must not make (70_reset_and_hazards R170; log 15). An
answer is a move only while the step at hand waits for that kind of token. -/
def State.hostMove (s : State) : HostMove → Option State
  | .load x y c => s.load x y c
  | .reset => some s.rst
  | .run level => some (s.setRun level)
  | .answerInt t =>
    if s.inputRequest = some .int then some (s.setIntIn (s.intIn ++ [t])) else none
  | .answerChar t =>
    if s.inputRequest = some .char then some (s.setCharIn (s.charIn ++ [t])) else none
  | .draw r => some { s with rnd := s.rnd ++ [r] }

/-! ### The status port -/

/-- The code of `FKIND` (10_state R17). -/
def fkindCode : Option FaultKind → BitVec 2
  | none => 0
  | some .unknownInstruction => 1
  | some .outOfBounds => 2
  | some .stackOverflow => 3

/-- The status signals that can be read at any time (10_state R23, 70_reset_and_hazards R170). -/
structure Status where
  halted : Bool
  fkind : BitVec 2
  fchar : Byte
  pcX : BitVec 7
  pcY : BitVec 5
  dir : BitVec 2
  strmode : Bool
  sp : Nat
  deriving DecidableEq, Repr

/-- The status signals of a state (10_state R23). -/
def State.status (s : State) : Status where
  halted := s.halted
  fkind := fkindCode s.fkind
  fchar := s.fchar
  pcX := BitVec.ofNat 7 s.pcx.val
  pcY := BitVec.ofNat 5 s.pcy.val
  dir := s.dir.code
  strmode := s.strmode
  sp := s.sp

/-- `STK` and `GRID` can be read while `run = 0` or at the end of a run (70_reset_and_hazards R170). -/
def State.readable (s : State) : Bool := !s.run || s.halted || s.fkind.isSome

/-- Read access to `STK[k]`, counted from the bottom (10_state R23). -/
def State.stkPort (s : State) (k : Nat) : Option Word := if s.readable then s.stk.reverse[k]? else none

/-- Read access to `GRID[y][x]` (10_state R23). -/
def State.gridPort (s : State) (x : Fin 80) (y : Fin 25) : Option Byte :=
  if s.readable then some (s.cell x y) else none

/-! ### The text of the output (44_system_io R126) -/

/-- The code of a decimal digit. -/
def digitCode (n : Nat) : Byte := BitVec.ofNat 8 (0x30 + n)

/-- At most `fuel` decimal digits of `n`, most significant first, no leading zeros, `0` for 0. -/
def decimalDigits : Nat → Nat → List Byte
  | 0, _ => []
  | fuel + 1, n =>
    if n < 10 then [digitCode n] else decimalDigits fuel (n / 10) ++ [digitCode (n % 10)]

/-- `decimal(v)`: a minus sign for negative values, then the digits; ten digits are enough for 32 bits
(44_system_io R126). -/
def decimal (v : Word) : List Byte :=
  if v.toInt < 0 then 0x2D :: decimalDigits 10 v.toInt.natAbs else decimalDigits 10 v.toInt.natAbs

/-- `render(t)`; a `CHAR` token outside 0..255 has no text of the core's (44_system_io R126; log 14). -/
def OutToken.render : OutToken → Option (List Byte)
  | .char v => if 0 ≤ v.toInt ∧ v.toInt ≤ 255 then some [lowByte v] else none
  | .int v => some (decimal v ++ [0x20])

/-- The text of a token sequence: the tokens' texts one after the other (44_system_io R126). -/
def renderAll : List OutToken → Option (List Byte)
  | [] => some []
  | t :: rest => t.render.bind fun a => (renderAll rest).map fun b => a ++ b

/-- The observable output of a run so far. -/
def State.outputText (s : State) : Option (List Byte) := renderAll s.out

end Sys2Proof.Machine
end

