-- ==== Sys2Proof/Safety.lean ====
section
/-! DEFINITION. The terms claims use: the invariant, the end of a run, a run without a fault, and what an
instruction pops and pushes. -/

namespace Sys2Proof.Machine

/-- `DEPTH` is at least 2, or has no bound (00_scope R4). -/
def Depth.wf : Depth → Bool
  | .unbounded => true
  | .cells n => decide (2 ≤ n)

/-- A stack of `k` cells is within `DEPTH` (40_stack R79). -/
def Depth.admits : Depth → Nat → Bool
  | .unbounded, _ => true
  | .cells n, k => decide (k ≤ n)

/-- `DEPTH` is a legal capacity and the stack is within it (00_scope R4, 40_stack R79). -/
def State.stackWf (s : State) : Bool := s.depth.wf && s.depth.admits s.sp

/-- What the fault record says of the rest of the state (60_exceptions R140 to R145): with no fault `FCHAR` is 0; after
one, the core is not halted, `FCHAR` is the code of the cell under the frozen position, and the cause is still there
to be seen. -/
def State.faultRecordWf (s : State) : Bool :=
  match s.fkind with
  | none => decide (s.fchar = 0)
  | some k =>
    !s.halted && decide (s.fchar = s.fetch) &&
    match k with
    | .unknownInstruction => decide (decode s.strmode s.fchar = .unknownInstruction s.fchar)
    | .outOfBounds =>
      !s.strmode && (decide (s.fchar = 0x67) || decide (s.fchar = 0x70)) &&
        (gridAddr (s.operand 1) (s.operand 0)).isNone
    | .stackOverflow => s.full

/-- What an input step at hand says of the rest of the state: a run is under way, the step was fetched outside string
mode, and the stack has room for its token (44_system_io R125, R127, R129). -/
def State.requestWf (s : State) : Bool :=
  s.request.isNone || (s.inRun && !s.strmode && !s.full)

/-- The invariant: the grid is in its canonical form, the stack within its capacity, the fault record true, and an input
step at hand possible. -/
abbrev State.Inv (s : State) : Prop :=
  s.grid.wf = true ∧ s.stackWf = true ∧ s.faultRecordWf = true ∧ s.requestWf = true

/-- The run has ended normally (70_reset_and_hazards R168). -/
def State.endedNormally (s : State) : Bool := s.halted

/-- The run has ended fatally (70_reset_and_hazards R168). -/
def State.endedFatally (s : State) : Bool := s.fkind.isSome

/-- The state at the start of a run of the loaded grid `g` on a core of capacity `d` (70_reset_and_hazards R163,
R164). -/
def State.launch (g : Memory) (d : Depth) : State := { State.reset with grid := g, depth := d }

/-- `n` steps of the main loop, stopping at the first that answers no next state (30_encoding R60). -/
def runSteps : Nat → State → Host.Outcome State Fault Refusal
  | 0, s => .next s
  | n + 1, s =>
    match step s with
    | .next t => runSteps n t
    | .fault r => .fault r
    | .refused r => .refused r

/-- No fault in the first `n` steps from `s`. -/
def SafeFor (n : Nat) (s : State) : Prop :=
  ∀ k, k ≤ n → ∀ t : State, runSteps k s = .next t → t.endedFatally = false

/-- How many operands an instruction pops (40_stack R79). -/
def instrPops : Instr → Nat
  | .exit | .blank | .right | .left | .up | .down | .rand | .bridge | .quote | .ini | .inc => 0
  | .pushd _ | .strpush _ => 0
  | .dup | .pop | .outc | .outi | .not | .hif | .vif => 1
  | .swap | .add | .sub | .mul | .div | .mod | .gt | .get => 2
  | .put => 3

/-- How many cells an instruction pushes (40_stack R79). -/
def instrPushes : Instr → Nat
  | .exit | .blank | .right | .left | .up | .down | .rand | .bridge | .quote | .pop | .outc | .outi | .hif | .vif => 0
  | .put => 0
  | .pushd _ | .strpush _ | .ini | .inc | .add | .sub | .mul | .div | .mod | .gt | .not | .get => 1
  | .swap | .dup => 2

end Sys2Proof.Machine
end

