-- ==== Sys2Proof/Certificates/Slice0/Obligations.lean ====
section
/-! DEFINITION. The statements for the provers. `s.operand n` is the n-th operand from the top, the phantom zero
where the stack has no such cell. `s.stackWf` says that `DEPTH` is at least 2 (or infinite) and `SP ≤ DEPTH`
(00_scope R4, 40_stack R79); that every step keeps it is part of `StepKeepsInv`. -/

open Sys2Proof Sys2Proof.Machine

/-! ### The invariant, the step, reset -/

/-- The invariant holds at the start of every run: any loaded grid, any legal capacity, and the reset state.
Rests on the model's choices of logs 1 and 2 for `State.reset` itself. -/
def Obligations.InvHoldsAtLaunch : Prop :=
  State.reset.Inv ∧ ∀ (g : Memory) (d : Depth), g.wf = true → d.wf = true → (State.launch g d).Inv

/-- Every step keeps the invariant: the grid's canonical form, the stack within `DEPTH`, and a fault record that
says what is really under the frozen position, and an input step at hand only in a core that could have begun it
(10_state R17, R18, 40_stack R79, 44_system_io R129, 60_exceptions R144, R145). That an input step at hand stands in
`request` is log 13. -/
def Obligations.StepKeepsInv : Prop :=
  ∀ s t : State, s.Inv → step s = .next t → t.Inv

/-- Every instruction in every state, and every step, answers a next state: what the spec calls a fault is taken, and
nothing stops the model (20_memory R47, 60_exceptions R144). The form of the answer is the model's choice (log 8). -/
def Obligations.EveryStepAnswersNext : Prop :=
  (∀ (i : Instr) (s : State), ∃ t : State, exec i s = .next t) ∧ ∀ s : State, ∃ t : State, step s = .next t

/-- An enabled step is `exec` of the instruction that the cell under the position decodes to under the present
`STRMODE`; that instruction is well-formed and its code is the one fetched (30_encoding R60). With an input step at hand
it is that step that goes on, whatever the cell holds: its fetch has been made (44_system_io R129; log 13). Around `exec`
a step adds the record that a run has begun (log 18). -/
def Obligations.StepRunsTheFetchedInstruction : Prop :=
  (∀ (s : State) (i : Instr), s.halted = false → s.fkind = none → s.run = true → s.request = none →
    decode s.strmode (s.grid.read (s.pcy.val * 80 + s.pcx.val)) = .operation i →
    step s = exec i { s with begun := true } ∧ i.wellFormed = true ∧ encodeCell i = s.grid.read (s.pcy.val * 80 + s.pcx.val)) ∧
  ∀ s : State, s.halted = false → s.fkind = none → s.run = true →
    (s.request = some .int → step s = exec .ini { s with begun := true }) ∧
      (s.request = some .char → step s = exec .inc { s with begun := true })

/-- When the core is halted, faulted or paused all state holds (30_encoding R61; that the model answers such a step
with the same state is log 6). -/
def Obligations.StateHoldsWhenNotEnabled : Prop :=
  ∀ s : State, s.halted = true ∨ s.fkind ≠ none ∨ s.run = false → step s = .next s

/-- Outside string mode a fetched code without an operation raises UnknownInstruction: the record is written, the rest
of the state stays; in string mode no code does so (60_exceptions R141, R144). The record that a run has begun is the
model's own (log 18). -/
def Obligations.UnknownCodeRaisesUnknownInstruction : Prop :=
  (∀ (s : State) (c : Byte), s.halted = false → s.fkind = none → s.run = true → s.request = none →
    decode s.strmode s.fetch = .unknownInstruction c →
    s.strmode = false ∧
      step s = .next { s with begun := true, fkind := some .unknownInstruction, fchar := s.fetch }) ∧
  ∀ c c' : Byte, decode true c ≠ .unknownInstruction c'

/-- `RESET` from any state: the register values of 10_state R27, the grid and `DEPTH` left alone, the output history
empty, an input step at hand abandoned with its request (70_reset_and_hazards R160), and the invariant. What else goes or
stays on the ports is the model's choice (log 16). -/
def Obligations.ResetRestoresAllButGrid : Prop :=
  ∀ s : State,
    (s.rst.stk = [] ∧ s.rst.sp = 0 ∧ s.rst.pcx = 0 ∧ s.rst.pcy = 0 ∧ s.rst.dir = .right ∧ s.rst.strmode = false ∧
      s.rst.halted = false ∧ s.rst.fkind = none ∧ s.rst.fchar = 0 ∧ s.rst.out = []) ∧
    (∀ (x : Fin 80) (y : Fin 25), s.rst.cell x y = s.cell x y) ∧
    s.rst.request = none ∧ s.rst.intIn = [] ∧ s.rst.charIn = [] ∧ s.rst.rnd = [] ∧
    s.rst.depth = s.depth ∧ s.rst.run = s.run ∧ s.rst.draws = s.draws ∧ s.rst.begun = false ∧
    (s.grid.wf = true → s.depth.wf = true → s.rst.Inv) ∧ State.reset.rst = State.reset

/-! ### Encoding -/

/-- Decoding undoes encoding, for every well-formed instruction under every mode bit its encoding admits; each admits
one (30_encoding R52 to R55). -/
def Obligations.DecodeInvertsEncode : Prop :=
  ∀ i : Instr, i.wellFormed = true →
    (∃ m : Bool, admitsMode i m = true) ∧
    ∀ m : Bool, admitsMode i m = true →
      decodeKey (encode m i) = .operation i ∧
      decodeTableWord 16 (encode m i).toNat = some i

/-- Encoding undoes decoding: each key that has a meaning is the one encoding of a well-formed instruction under its
own mode bit, so no two keys but the two of `QUOTE` share an instruction. -/
def Obligations.EncodeInvertsDecode : Prop :=
  ∀ (k : Key) (i : Instr), decodeKey k = .operation i →
    i.wellFormed = true ∧ admitsMode i (k.getLsbD 8) = true ∧ encode (k.getLsbD 8) i = k

/-- The 45 match and mask rows: the rows that select a key are exactly one row, of the instruction the key decodes to,
or none where the key decodes to UnknownInstruction, and then bit 8 is 0 (30_encoding R58). -/
def Obligations.OpcodeTableRowsAgreeWithDecode : Prop :=
  opcodeRows.length = 45 ∧
  ∀ k : Key,
    (∀ i : Instr, decodeKey k = .operation i →
      (opcodeRows.filter fun r => r.selects k).map (fun r => r.instr (k.setWidth 8)) = [i]) ∧
    (∀ c : Byte, decodeKey k = .unknownInstruction c →
      (opcodeRows.filter fun r => r.selects k).length = 0 ∧ k.getLsbD 8 = false)

/-- The codes without an operation are those that 30_encoding R56 lists, 219 of them, and none of them is without a
meaning in string mode. The record and the frozen position are the spec's decisions D10 and D11 (60_exceptions R144);
that the frozen core answers the same state is the model's choice (log 6). -/
def Obligations.IllegalCodesAreTheListed : Prop :=
  (∀ c : Byte, decode false c = .unknownInstruction c ↔
    (c.toNat ≤ 0x1F ∨ (0x27 ≤ c.toNat ∧ c.toNat ≤ 0x29) ∨ c.toNat = 0x3B ∨ c.toNat = 0x3D ∨
      (0x41 ≤ c.toNat ∧ c.toNat ≤ 0x5B) ∨ c.toNat = 0x5D ∨ (0x61 ≤ c.toNat ∧ c.toNat ≤ 0x66) ∨
      (0x68 ≤ c.toNat ∧ c.toNat ≤ 0x6F) ∨ (0x71 ≤ c.toNat ∧ c.toNat ≤ 0x75) ∨
      (0x77 ≤ c.toNat ∧ c.toNat ≤ 0x7B) ∨ c.toNat = 0x7D ∨ 0x7F ≤ c.toNat)) ∧
  ((List.range 256).filter fun n => decide (decode false (BitVec.ofNat 8 n) = .unknownInstruction (BitVec.ofNat 8 n))).length
    = 219 ∧
  (∀ s : State, s.halted = false → s.fkind = none → s.run = true → s.request = none → s.strmode = false →
    decode false s.fetch = .unknownInstruction s.fetch →
    ∃ t : State, step s = .next t ∧ t.fkind = some .unknownInstruction ∧ t.fchar = s.fetch ∧
      t.pcx = s.pcx ∧ t.pcy = s.pcy ∧ step t = .next t) ∧
  ∀ c c' : Byte, decode true c ≠ .unknownInstruction c'

/-- One written-out code of each family, from the table of 30_encoding R55 and the vectors of 95_test_vectors 2.6. -/
def Obligations.WrittenOutCodesDecode : Prop :=
  decode false 0x5C = .operation .swap ∧ decode false 0x2F = .operation .div ∧
  decode false 0x60 = .operation .gt ∧ decode false 0x76 = .operation .down ∧
  decode false 0x7C = .operation .vif ∧ decode false 0x67 = .operation .get ∧
  decode false 0x7E = .operation .inc ∧ decode false 0x35 = .operation (.pushd 5) ∧
  decode true 0x35 = .operation (.strpush 0x35) ∧ decode true 0x22 = .operation .quote ∧
  decode false 0x41 = .unknownInstruction 0x41 ∧ decodeTableWord 16 0x135 = some (.strpush 0x35)

/-! ### The stack -/

/-- `PUSHD`: its code, the value pushed, and the overflow; in string mode the digit is data (40_stack R74). Rests on
the spec's decisions D2 and D10 for the overflow. -/
def Obligations.PushdPushesItsDigit : Prop :=
  ∀ d : BitVec 4, d.toNat ≤ 9 →
    decode false (BitVec.ofNat 8 (0x30 + d.toNat)) = .operation (.pushd d) ∧
    decode true (BitVec.ofNat 8 (0x30 + d.toNat)) = .operation (.strpush (BitVec.ofNat 8 (0x30 + d.toNat))) ∧
    ∀ s : State,
      (s.full = false →
        exec (.pushd d) s = .next (State.advance { s with stk := BitVec.ofNat 32 d.toNat :: s.stk })) ∧
      (s.full = true →
        exec (.pushd d) s =
          .next { s with fkind := some .stackOverflow, fchar := BitVec.ofNat 8 (0x30 + d.toNat) })

/-- `STRPUSH`: every code but the quote is pushed as 0..255 (40_stack R75, 30_encoding R53). Rests on D2 and D10 for the
overflow. -/
def Obligations.StrpushPushesTheCode : Prop :=
  ∀ c : Byte, c ≠ 0x22 →
    decode true c = .operation (.strpush c) ∧
    ∀ s : State,
      (s.full = false →
        exec (.strpush c) s = .next (State.advance { s with stk := BitVec.ofNat 32 c.toNat :: s.stk })) ∧
      (s.full = true →
        exec (.strpush c) s = .next { s with fkind := some .stackOverflow, fchar := c })

/-- A step in string mode on any code but the quote pushes the code and advances, and does nothing else: it does not
halt, fault, draw, take input, emit or touch the grid, whatever the code means outside string mode; the quote is
`QUOTE` (30_encoding R53). The record that a run has begun is the model's own (log 18). -/
def Obligations.StringModeTreatsEveryCodeAsData : Prop :=
  (∀ c : Byte, c ≠ 0x22 → decode true c = .operation (.strpush c)) ∧
  (∀ s : State, s.halted = false → s.fkind = none → s.run = true → s.request = none → s.strmode = true →
    s.fetch ≠ 0x22 → s.full = false →
    step s = .next (State.advance { s with stk := BitVec.ofNat 32 s.fetch.toNat :: s.stk, begun := true })) ∧
  decode true 0x22 = .operation .quote

/-- `SWAP` exchanges the top two operands, phantom zeros included, and two swaps restore a stack of two or more cells
(40_stack R72, R76). Rests on `DEPTH ≥ 2`, the spec's decision D2. -/
def Obligations.SwapExchangesTheTopTwo : Prop :=
  decode false 0x5C = .operation .swap ∧
  ∀ s : State, s.stackWf = true →
    exec .swap s = .next (State.advance { s with stk := s.operand 1 :: s.operand 0 :: s.stk.drop 2 }) ∧
    (2 ≤ s.sp → ∃ t : State, swap s = .done t ∧ swap t = .done s)

/-- `DUP` leaves the top operand twice, or overflows exactly on a full stack (40_stack R73, R77). Rests on D2 and D10
for the overflow. -/
def Obligations.DupDuplicatesTheTop : Prop :=
  decode false 0x3A = .operation .dup ∧
  ∀ s : State, s.stackWf = true →
    (s.full = false →
      exec .dup s = .next (State.advance { s with stk := s.operand 0 :: s.operand 0 :: s.stk.drop 1 })) ∧
    (s.full = true → exec .dup s = .next { s with fkind := some .stackOverflow, fchar := 0x3A })

/-- `pop()` removes and returns the top value; on the empty stack it returns 0 and leaves it empty (40_stack R71). `POP`
discards what it returns (40_stack R78). -/
def Obligations.PopRemovesTheTopOrYieldsPhantomZero : Prop :=
  (∀ s : State,
    (s.stk = [] → pop s = (0, s)) ∧
    (∀ (v : Word) (rest : List Word), s.stk = v :: rest → pop s = (v, { s with stk := rest })) ∧
    (pop s).2.sp = s.sp - 1) ∧
  decode false 0x24 = .operation .pop ∧
  ∀ s : State,
    exec .pop s = .next (State.advance { s with stk := s.stk.drop 1 }) ∧
    (s.stk = [] → exec .pop s = .next (State.advance s))

/-! ### Arithmetic, logic, comparison -/

/-- `ADD`: the exact sum, reduced to 32 bits (41_arithmetic R85, R86, R93). Rests on the spec's decision D1. -/
def Obligations.AddPushesTheWrappedSum : Prop :=
  decode false 0x2B = .operation .add ∧
  ∀ s : State, s.stackWf = true →
    exec .add s = .next (State.advance { s with
      stk := BitVec.ofInt 32 ((s.operand 1).toInt + (s.operand 0).toInt) :: s.stk.drop 2 }) ∧
    (s.stk = [] → exec .add s = .next (State.advance { s with stk := [0] })) ∧
    ∀ r : Word, s.stk = [r] → exec .add s = .next (State.advance { s with stk := [r] })

/-- `SUB`: the top is subtracted from the cell under it, exactly, then reduced to 32 bits (41_arithmetic R85, R87, R93).
Rests on D1. -/
def Obligations.SubPushesTheWrappedDifference : Prop :=
  decode false 0x2D = .operation .sub ∧
  ∀ s : State, s.stackWf = true →
    exec .sub s = .next (State.advance { s with
      stk := BitVec.ofInt 32 ((s.operand 1).toInt - (s.operand 0).toInt) :: s.stk.drop 2 }) ∧
    (s.stk = [] → exec .sub s = .next (State.advance { s with stk := [0] })) ∧
    ∀ r : Word, s.stk = [r] → exec .sub s = .next (State.advance { s with stk := [-r] })

/-- `MUL`: the exact product, reduced to 32 bits (41_arithmetic R85, R88, R93). Rests on D1. -/
def Obligations.MulPushesTheWrappedProduct : Prop :=
  decode false 0x2A = .operation .mul ∧
  ∀ s : State, s.stackWf = true →
    exec .mul s = .next (State.advance { s with
      stk := BitVec.ofInt 32 ((s.operand 1).toInt * (s.operand 0).toInt) :: s.stk.drop 2 }) ∧
    (s.sp ≤ 1 → exec .mul s = .next (State.advance { s with stk := [0] }))

/-- `DIV`: the quotient rounded toward zero, reduced to 32 bits; 0 for a zero divisor (41_arithmetic R89, R94). Rests on
D1, D5 and D6. -/
def Obligations.DivPushesTheTruncatedQuotient : Prop :=
  decode false 0x2F = .operation .div ∧
  ∀ s : State, s.stackWf = true →
    (s.operand 0 ≠ 0 →
      exec .div s = .next (State.advance { s with
        stk := BitVec.ofInt 32 ((s.operand 1).toInt.tdiv (s.operand 0).toInt) :: s.stk.drop 2 })) ∧
    (s.operand 0 = 0 → exec .div s = .next (State.advance { s with stk := 0 :: s.stk.drop 2 }))

/-- `MOD`: the remainder of the truncating division; 0 for a zero divisor (41_arithmetic R90, R94). Rests on D5. -/
def Obligations.ModPushesTheTruncatedRemainder : Prop :=
  decode false 0x25 = .operation .mod ∧
  ∀ s : State, s.stackWf = true →
    (s.operand 0 ≠ 0 → ∃ r : Word,
      r.toInt = (s.operand 1).toInt - (s.operand 0).toInt * (s.operand 1).toInt.tdiv (s.operand 0).toInt ∧
      exec .mod s = .next (State.advance { s with stk := r :: s.stk.drop 2 })) ∧
    (s.operand 0 = 0 → exec .mod s = .next (State.advance { s with stk := 0 :: s.stk.drop 2 }))

/-- The laws that tie `/` and `%` together for a divisor that is not 0: lhs = q * rhs + r, |r| < |rhs|, and r is 0 or
has the sign of lhs; the one pair whose quotient does not fit wraps (41_arithmetic R94). Rests on D6 for that pair. -/
def Obligations.QuotientAndRemainderLaws : Prop :=
  ∀ s : State, s.stackWf = true → s.operand 0 ≠ 0 →
    ∃ q r : Word,
      exec .div s = .next (State.advance { s with stk := q :: s.stk.drop 2 }) ∧
      exec .mod s = .next (State.advance { s with stk := r :: s.stk.drop 2 }) ∧
      r.toInt.natAbs < (s.operand 0).toInt.natAbs ∧
      (r.toInt = 0 ∨ (0 < r.toInt ∧ 0 < (s.operand 1).toInt) ∨ (r.toInt < 0 ∧ (s.operand 1).toInt < 0)) ∧
      (¬ ((s.operand 1).toInt = -2147483648 ∧ (s.operand 0).toInt = -1) →
        (s.operand 1).toInt = q.toInt * (s.operand 0).toInt + r.toInt) ∧
      ((s.operand 1).toInt = -2147483648 → (s.operand 0).toInt = -1 → q.toInt = -2147483648 ∧ r = 0)

/-- `NOT`: 1 if the operand is 0, else 0 (41_arithmetic R91). -/
def Obligations.NotPushesTheZeroTest : Prop :=
  decode false 0x21 = .operation .not ∧
  ∀ s : State, s.stackWf = true →
    (s.operand 0 = 0 → exec .not s = .next (State.advance { s with stk := 1 :: s.stk.drop 1 })) ∧
    (s.operand 0 ≠ 0 → exec .not s = .next (State.advance { s with stk := 0 :: s.stk.drop 1 })) ∧
    (s.stk = [] → exec .not s = .next (State.advance { s with stk := [1] }))

/-- `GT`: 1 if lhs > rhs as signed integers, else 0 (41_arithmetic R92). -/
def Obligations.GtPushesTheSignedComparison : Prop :=
  decode false 0x60 = .operation .gt ∧
  ∀ s : State, s.stackWf = true →
    ((s.operand 1).toInt > (s.operand 0).toInt →
      exec .gt s = .next (State.advance { s with stk := 1 :: s.stk.drop 2 })) ∧
    (¬ (s.operand 1).toInt > (s.operand 0).toInt →
      exec .gt s = .next (State.advance { s with stk := 0 :: s.stk.drop 2 })) ∧
    (s.stk = [] → exec .gt s = .next (State.advance { s with stk := [0] })) ∧
    ∀ r : Word, s.stk = [r] →
      (r.toInt < 0 → exec .gt s = .next (State.advance { s with stk := [1] })) ∧
      (¬ r.toInt < 0 → exec .gt s = .next (State.advance { s with stk := [0] }))

/-! ### The program counter -/

/-- `advance()`: one cell in direction `DIR`, wrapping at every edge; the other coordinate and everything else stay
(42_pc_control R100). That up decreases y is the spec's decision D4. -/
def Obligations.AdvanceMovesOneCellAndWraps : Prop :=
  ∀ s : State,
    (s.dir = .right → s.advance = { s with pcx := s.advance.pcx } ∧
      s.advance.pcx.val = if s.pcx.val = 79 then 0 else s.pcx.val + 1) ∧
    (s.dir = .left → s.advance = { s with pcx := s.advance.pcx } ∧
      s.advance.pcx.val = if s.pcx.val = 0 then 79 else s.pcx.val - 1) ∧
    (s.dir = .up → s.advance = { s with pcy := s.advance.pcy } ∧
      s.advance.pcy.val = if s.pcy.val = 0 then 24 else s.pcy.val - 1) ∧
    (s.dir = .down → s.advance = { s with pcy := s.advance.pcy } ∧
      s.advance.pcy.val = if s.pcy.val = 24 then 0 else s.pcy.val + 1)

/-- The grid is a torus: 80 advances along a row, or 25 along a column, lead back to the same state, and no smaller
number of advances does (10_state R13, 42_pc_control R100). -/
def Obligations.AdvanceGoesRoundTheTorus : Prop :=
  ∀ (s : State) (n : Nat),
    State.advance^[n] s = s ↔
      (if s.dir = .right ∨ s.dir = .left then n % 80 = 0 else n % 25 = 0)

/-- `RIGHT` and `LEFT` set the direction and nothing else but the position changes; at x = 0 the advance of `LEFT` wraps
to x = 79 (42_pc_control R102, R103). -/
def Obligations.RightAndLeftSetTheDirection : Prop :=
  decode false 0x3E = .operation .right ∧ decode false 0x3C = .operation .left ∧
  ∀ s : State,
    exec .right s = .next (State.advance { s with dir := .right }) ∧
    exec .left s = .next (State.advance { s with dir := .left }) ∧
    (s.dir = .right → exec .right s = .next s.advance) ∧
    (s.pcx = 0 → exec .left s = .next { s with dir := .left, pcx := 79 })

/-- `UP` and `DOWN` set the direction; at the top row up wraps to the bottom row, and the other way round
(42_pc_control R104, R105). Which way is up is the spec's decision D4. -/
def Obligations.UpAndDownSetTheDirection : Prop :=
  decode false 0x5E = .operation .up ∧ decode false 0x76 = .operation .down ∧
  decode false 0x56 = .unknownInstruction 0x56 ∧
  ∀ s : State,
    exec .up s = .next (State.advance { s with dir := .up }) ∧
    exec .down s = .next (State.advance { s with dir := .down }) ∧
    (s.pcy = 0 → exec .up s = .next { s with dir := .up, pcy := 24 }) ∧
    (s.pcy = 24 → exec .down s = .next { s with dir := .down, pcy := 0 })

/-- `RAND` takes one draw and sets the direction it stands for; every draw is possible, and where the host has set none
the direction is a free value, of which this says only which one is used (42_pc_control R106, 10_state R26). Rests on
D3 and D16, and on log 4 for where draws stand. -/
def Obligations.RandSetsTheDrawnDirection : Prop :=
  decode false 0x3F = .operation .rand ∧
  (∀ (s : State) (r : BitVec 2) (rest : List (BitVec 2)), s.rnd = r :: rest →
    exec .rand s = .next (State.advance { s with rnd := rest, dir := Dir.ofCode r })) ∧
  (∀ s : State, s.rnd = [] →
    exec .rand s = .next (State.advance { s with
      draws := s.draws + 1, dir := Dir.ofCode (Config.freeDraw s.draws) })) ∧
  (Dir.ofCode 0 = .right ∧ Dir.ofCode 1 = .left ∧ Dir.ofCode 2 = .up ∧ Dir.ofCode 3 = .down) ∧
  ∀ d : Dir, Dir.ofCode d.code = d

/-- `HIF` pops one operand and goes right on 0, else left (42_pc_control R107). -/
def Obligations.HorizontalIfTurnsOnThePoppedValue : Prop :=
  decode false 0x5F = .operation .hif ∧
  ∀ s : State,
    (s.operand 0 = 0 → exec .hif s = .next (State.advance { s with stk := s.stk.drop 1, dir := .right })) ∧
    (s.operand 0 ≠ 0 → exec .hif s = .next (State.advance { s with stk := s.stk.drop 1, dir := .left })) ∧
    (s.stk = [] → exec .hif s = .next (State.advance { s with dir := .right }))

/-- `VIF` pops one operand and goes down on 0, else up (42_pc_control R108). -/
def Obligations.VerticalIfTurnsOnThePoppedValue : Prop :=
  decode false 0x7C = .operation .vif ∧
  ∀ s : State,
    (s.operand 0 = 0 → exec .vif s = .next (State.advance { s with stk := s.stk.drop 1, dir := .down })) ∧
    (s.operand 0 ≠ 0 → exec .vif s = .next (State.advance { s with stk := s.stk.drop 1, dir := .up })) ∧
    (s.stk = [] → exec .vif s = .next (State.advance { s with dir := .down }))

/-- `BRIDGE` advances twice in one step and changes nothing else, whatever the skipped cell holds: its answer is the
same in a state with another code there. In string mode `#` is data (42_pc_control R109). -/
def Obligations.BridgeSkipsExactlyOneCell : Prop :=
  decode false 0x23 = .operation .bridge ∧ decode true 0x23 = .operation (.strpush 0x23) ∧
  ∀ s : State,
    exec .bridge s = .next s.advance.advance ∧
    (s.dir = .right → s.pcx = 79 → exec .bridge s = .next { s with pcx := 1 }) ∧
    (s.dir = .right → s.pcx = 78 → exec .bridge s = .next { s with pcx := 0 }) ∧
    ∀ c : Byte, exec .bridge { s with grid := s.grid.write (cellAddr s.advance.pcx s.advance.pcy) c } =
      .next { s.advance.advance with grid := s.grid.write (cellAddr s.advance.pcx s.advance.pcy) c }

/-- Direction is only changed by the seven direction opcodes, and the advance never changes it; the seven change it
before the advance of their own step, so the next position is the neighbour in the new direction
(42_pc_control R101). -/
def Obligations.DirectionOnlyChangedByDirectionOpcodes : Prop :=
  (∀ s : State, s.advance.dir = s.dir) ∧
  (∀ (i : Instr) (s t : State), exec i s = .next t →
    i ≠ .right → i ≠ .left → i ≠ .up → i ≠ .down → i ≠ .rand → i ≠ .hif → i ≠ .vif → t.dir = s.dir) ∧
  (∀ (i : Instr) (s t : State), exec i s = .next t →
    i = .right ∨ i = .left ∨ i = .up ∨ i = .down ∨ i = .rand ∨ i = .hif ∨ i = .vif →
    t.pcx = (State.advance { s with dir := t.dir }).pcx ∧ t.pcy = (State.advance { s with dir := t.dir }).pcy) ∧
  ∀ s t : State, step s = .next t → t.dir ≠ s.dir →
    ∃ i : Instr, decode s.strmode s.fetch = .operation i ∧
      (i = .right ∨ i = .left ∨ i = .up ∨ i = .down ∨ i = .rand ∨ i = .hif ∨ i = .vif)

/-- Where an instruction that completes leaves the position: two cells on for `BRIDGE`, one cell on for every other,
in the direction it leaves (30_encoding R60, 42_pc_control R100, R109, R110). -/
def Obligations.PositionMovesByAdvanceOnly : Prop :=
  ∀ (i : Instr) (s t : State), exec i s = .next t → t.fkind = none →
    (i = .ini → s.intIn ≠ []) → (i = .inc → s.charIn ≠ []) →
    (i ≠ .bridge → t.pcx = (State.advance { s with dir := t.dir }).pcx ∧
      t.pcy = (State.advance { s with dir := t.dir }).pcy) ∧
    (i = .bridge → t.pcx = s.advance.advance.pcx ∧ t.pcy = s.advance.advance.pcy)

/-! ### The grid -/

/-- `GET`: the cell's code for coordinates in the grid, OutOfBounds with everything left as it was for all others
(43_grid_access R115, 20_memory R35). The state after the fault rests on D10. -/
def Obligations.GetPushesTheCellOrFaults : Prop :=
  decode false 0x67 = .operation .get ∧
  ∀ s : State, s.stackWf = true →
    (0 ≤ (s.operand 1).toInt → (s.operand 1).toInt < 80 → 0 ≤ (s.operand 0).toInt → (s.operand 0).toInt < 25 →
      exec .get s = .next (State.advance { s with
        stk := BitVec.ofNat 32 (s.grid.read ((s.operand 0).toInt.toNat * 80 + (s.operand 1).toInt.toNat)).toNat
          :: s.stk.drop 2 })) ∧
    ((s.operand 1).toInt < 0 ∨ 80 ≤ (s.operand 1).toInt ∨ (s.operand 0).toInt < 0 ∨ 25 ≤ (s.operand 0).toInt →
      exec .get s = .next { s with fkind := some .outOfBounds, fchar := 0x67 })

/-- `PUT`: the low 8 bits stored at the computed address, every other cell and everything but the three operands, the
position left alone; OutOfBounds with nothing written for coordinates outside the grid (43_grid_access R116,
20_memory R36). Rests on D7 for the low 8 bits and D10 for the fault. -/
def Obligations.PutStoresOneCellOrFaults : Prop :=
  decode false 0x70 = .operation .put ∧
  ∀ s : State, s.grid.wf = true →
    (0 ≤ (s.operand 1).toInt → (s.operand 1).toInt < 80 → 0 ≤ (s.operand 0).toInt → (s.operand 0).toInt < 25 →
      ∃ g : Memory, exec .put s = .next (State.advance { s with stk := s.stk.drop 3, grid := g }) ∧
        ∀ a : Nat, g.read a =
          if a = (s.operand 0).toInt.toNat * 80 + (s.operand 1).toInt.toNat
          then BitVec.ofNat 8 ((s.operand 2).toNat % 256) else s.grid.read a) ∧
    ((s.operand 1).toInt < 0 ∨ 80 ≤ (s.operand 1).toInt ∨ (s.operand 0).toInt < 0 ∨ 25 ≤ (s.operand 0).toInt →
      exec .put s = .next { s with fkind := some .outOfBounds, fchar := 0x70 })

/-- The frame of the grid: no instruction but `PUT` changes what any address reads as; `PUT` changes at most the one
address that its bounds check gives for the popped coordinates (10_state R19, R22, 20_memory R34). With `run` up, and
during a run whatever the level of `run`, no move of the host writes the grid, and none but `RESET` writes any other
element of the architectural state (10_state R28, 20_memory R45, 60_exceptions R156, the spec's decision D20); when a run
is under way is log 18. -/
def Obligations.OnlyPutWritesTheGrid : Prop :=
  (∀ (i : Instr) (s t : State), s.grid.wf = true → exec i s = .next t →
    (i ≠ .put → ∀ b : Nat, t.grid.read b = s.grid.read b) ∧
    (∀ a : Nat, i = .put → gridAddr (s.operand 1) (s.operand 0) = some a →
      t.grid.read a = lowByte (s.operand 2) ∧ ∀ b : Nat, b ≠ a → t.grid.read b = s.grid.read b) ∧
    (i = .put → gridAddr (s.operand 1) (s.operand 0) = none → ∀ b : Nat, t.grid.read b = s.grid.read b)) ∧
  ∀ (s t : State) (m : HostMove), s.run = true ∨ s.inRun = true → s.hostMove m = some t →
    t.grid = s.grid ∧ t.depth = s.depth ∧
    (m ≠ .reset → t.stk = s.stk ∧ t.pcx = s.pcx ∧ t.pcy = s.pcy ∧ t.dir = s.dir ∧ t.strmode = s.strmode ∧
      t.halted = s.halted ∧ t.fkind = s.fkind ∧ t.fchar = s.fchar)

/-- OutOfBounds is raised by `GET` and `PUT` alone, exactly when a popped coordinate is outside the grid, whatever the
value operand; then no cell is written, no result is pushed and no step follows; a fetch never raises it
(60_exceptions R142). That the operands stay on the stack is the spec's decision D10 (60_exceptions R144); that the frozen
core answers the same state is the model's choice (log 6). -/
def Obligations.OutOfBoundsExactlyOutsideTheGrid : Prop :=
  (∀ (i : Instr) (s t : State), s.fkind = none → exec i s = .next t →
    (t.fkind = some .outOfBounds ↔ (i = .get ∨ i = .put) ∧
      ((s.operand 1).toInt < 0 ∨ 80 ≤ (s.operand 1).toInt ∨ (s.operand 0).toInt < 0 ∨ 25 ≤ (s.operand 0).toInt)) ∧
    (t.fkind = some .outOfBounds → t.grid = s.grid ∧ t.stk = s.stk ∧ step t = .next t)) ∧
  ∀ s t : State, s.fkind = none → step s = .next t → t.fkind = some .outOfBounds →
    decode s.strmode s.fetch = .operation .get ∨ decode s.strmode s.fetch = .operation .put

/-- A store is seen by the very next fetch, also when it hits the cell that is fetched next, and by a `GET` of the same
coordinates; a cell it did not hit is fetched as before (20_memory R39, R42, R44). The value stored rests on D7. -/
def Obligations.StoreIsSeenByTheNextFetchAndGet : Prop :=
  ∀ (s t : State) (a : Nat), s.stackWf = true → s.grid.wf = true →
    gridAddr (s.operand 1) (s.operand 0) = some a → exec .put s = .next t →
    (cellAddr t.pcx t.pcy = a → t.fetch = lowByte (s.operand 2)) ∧
    (cellAddr t.pcx t.pcy ≠ a → t.fetch = s.cell t.pcx t.pcy) ∧
    ∀ u : State, u.grid = t.grid → u.depth = t.depth → u.stk = s.operand 0 :: s.operand 1 :: t.stk →
      exec .get u = .next (State.advance { u with stk := BitVec.ofNat 32 ((s.operand 2).toNat % 256) :: t.stk })

/-! ### Exit, no-op, string mode, output, input -/

/-- `EXIT` sets `HALTED` and the step still advances; in string mode `@` is data (44_system_io R120). Rests on D12. -/
def Obligations.ExitHaltsAndAdvances : Prop :=
  decode false 0x40 = .operation .exit ∧ decode true 0x40 = .operation (.strpush 0x40) ∧
  ∀ s : State, exec .exit s = .next (State.advance { s with halted := true })

/-- `BLANK` changes only the position; code 0x20 alone is the no-op, and it is data in string mode
(44_system_io R121). -/
def Obligations.BlankOnlyAdvances : Prop :=
  (∀ c : Byte, decode false c = .operation .blank ↔ c = 0x20) ∧
  (∀ c : Byte, c.toNat < 0x20 → decode false c = .unknownInstruction c) ∧
  decode true 0x20 = .operation (.strpush 0x20) ∧
  ∀ s : State, exec .blank s = .next s.advance

/-- `QUOTE` flips `STRMODE` in either mode and pushes nothing (44_system_io R122, first part). -/
def Obligations.QuoteFlipsStringMode : Prop :=
  decode false 0x22 = .operation .quote ∧ decode true 0x22 = .operation .quote ∧
  ∀ s : State,
    (s.strmode = false → exec .quote s = .next (State.advance { s with strmode := true })) ∧
    (s.strmode = true → exec .quote s = .next (State.advance { s with strmode := false }))

/-- `OUTC` pops one value and emits it whole as a `CHAR` token, in every state (44_system_io R123). -/
def Obligations.OutcEmitsACharToken : Prop :=
  decode false 0x2C = .operation .outc ∧
  ∀ s : State,
    exec .outc s =
      .next (State.advance { s with stk := s.stk.drop 1, out := s.out ++ [.char (s.operand 0)] }) ∧
    (s.stk = [] → exec .outc s = .next (State.advance { s with out := s.out ++ [.char 0] }))

/-- `OUTI` pops one value and emits it as an `INT` token, in every state; the token's text ends in a space
(44_system_io R124). -/
def Obligations.OutiEmitsAnIntToken : Prop :=
  decode false 0x2E = .operation .outi ∧
  (∀ s : State,
    exec .outi s =
      .next (State.advance { s with stk := s.stk.drop 1, out := s.out ++ [.int (s.operand 0)] }) ∧
    (s.stk = [] → exec .outi s = .next (State.advance { s with out := s.out ++ [.int 0] }))) ∧
  (∀ v : Word, (OutToken.int v).render = some (decimal v ++ [0x20])) ∧
  (OutToken.int 0).render = some [0x30, 0x20] ∧
  ∀ v : Word, v.toInt < 0 → (decimal v).head? = some 0x2D

/-- `INI`: overflow before any token is taken; an answered request pushes its integer, or 0 for `NONE`, and is over
(44_system_io R125). Rests on D2, D10, D26, and on log 3 for where answers stand. -/
def Obligations.IniTakesOneIntegerToken : Prop :=
  decode false 0x26 = .operation .ini ∧
  ∀ s : State,
    (s.full = true → exec .ini s = .next { s with fkind := some .stackOverflow, fchar := 0x26 }) ∧
    (∀ (n : Word) (rest : List IntToken), s.full = false → s.intIn = .int n :: rest →
      exec .ini s = .next (State.advance { s with intIn := rest, request := none, stk := n :: s.stk })) ∧
    (∀ rest : List IntToken, s.full = false → s.intIn = .absent :: rest →
      exec .ini s = .next (State.advance { s with intIn := rest, request := none, stk := 0 :: s.stk }))

/-- `INC`: overflow before any token is taken; an answered request pushes its code 0..255, or -1 at the end of input,
and is over (44_system_io R127). Rests on D2, D8, D10, D26, and on log 3 for where answers stand. -/
def Obligations.IncTakesOneCharacterToken : Prop :=
  decode false 0x7E = .operation .inc ∧
  ∀ s : State,
    (s.full = true → exec .inc s = .next { s with fkind := some .stackOverflow, fchar := 0x7E }) ∧
    (∀ (c : Byte) (rest : List CharToken), s.full = false → s.charIn = .char c :: rest →
      exec .inc s = .next (State.advance { s with
        charIn := rest, request := none, stk := BitVec.ofNat 32 c.toNat :: s.stk })) ∧
    (∀ rest : List CharToken, s.full = false → s.charIn = .absent :: rest →
      exec .inc s = .next (State.advance { s with charIn := rest, request := none, stk := -1 :: s.stk }))

/-- The hold: an input step without an answer makes its request and changes nothing else; from then on the core keeps
all its state, however many steps go by and whatever the level of `run`; after the host's answer, which is a move at
either level, the step completes with `run` up (44_system_io R129, 70_reset_and_hazards R167, R175). That a waiting step
answers the same state is log 5; that with `run` down the answered step waits for `run` is log 13. -/
def Obligations.InputHoldKeepsAllStateUntilAnswered : Prop :=
  (∀ s : State, s.full = false →
    (s.intIn = [] → exec .ini s = .next { s with request := some .int }) ∧
    (s.charIn = [] → exec .inc s = .next { s with request := some .char })) ∧
  (∀ (s : State) (n : Nat), s.requestWf = true → s.holding = true → runSteps n s = .next s) ∧
  (∀ (s : State) (n : Word), s.requestWf = true → s.holding = true → s.request = some .int →
    ∃ t : State, s.hostMove (.answerInt (.int n)) = some t ∧ t.holding = false ∧
      (s.run = false → step t = .next t) ∧
      step (t.setRun true) = .next (State.advance { s with run := true, request := none, stk := n :: s.stk })) ∧
  ∀ (s : State) (c : Byte), s.requestWf = true → s.holding = true → s.request = some .char →
    ∃ t : State, s.hostMove (.answerChar (.char c)) = some t ∧ t.holding = false ∧
      (s.run = false → step t = .next t) ∧
      step (t.setRun true) =
        .next (State.advance { s with run := true, request := none, stk := BitVec.ofNat 32 c.toNat :: s.stk })

/-! ### Faults and frames over all instructions -/

/-- StackOverflow is raised by the five pushing instructions alone, each exactly on a full stack (60_exceptions R143).
Rests on D2. -/
def Obligations.StackOverflowExactlyOnAFullStack : Prop :=
  ∀ (i : Instr) (s t : State), s.stackWf = true → s.fkind = none → exec i s = .next t →
    (t.fkind = some .stackOverflow ↔ s.full = true ∧
      (i = .dup ∨ i = .ini ∨ i = .inc ∨ (∃ d, i = .pushd d) ∨ ∃ c, i = .strpush c))

/-- Faults are precise: an instruction that raises one leaves the whole state as it was, but for the record of the
kind and of its own code; one that raises none leaves the record as it was (60_exceptions R144, 10_state R17, R18).
Rests on D10 and D11. -/
def Obligations.FaultsArePrecise : Prop :=
  ∀ (i : Instr) (s t : State), s.fkind = none → exec i s = .next t →
    (∀ k : FaultKind, t.fkind = some k → t = { s with fkind := some k, fchar := encodeCell i }) ∧
    (t.fkind = none → t.fchar = s.fchar)

/-- The mode bits: only `QUOTE` changes `STRMODE`, only `EXIT` changes `HALTED`, and no step ever clears `HALTED` or a
fault record (10_state R15, R16, R17, 60_exceptions R145, 70_reset_and_hazards R161). -/
def Obligations.ModeBitsOnlyChangedByTheirInstruction : Prop :=
  (∀ (i : Instr) (s t : State), exec i s = .next t →
    (i ≠ .quote → t.strmode = s.strmode) ∧ (i ≠ .exit → t.halted = s.halted)) ∧
  ∀ s t : State, step s = .next t →
    (s.halted = true → t.halted = true) ∧
    (∀ k : FaultKind, s.fkind = some k → t.fkind = some k ∧ t.fchar = s.fchar)

/-- What stands on the ports: only the output instructions emit, `INI` alone takes an integer token, `INC` alone a
character token, those two alone a request, `RAND` alone a draw, at most one each, and nothing changes `DEPTH`, `run` or
the record that a run has begun (10_state R24, R25, R26, 44_system_io R128; log 18 for the record). -/
def Obligations.PortsOnlyUsedByTheirInstruction : Prop :=
  ∀ (i : Instr) (s t : State), exec i s = .next t →
    t.depth = s.depth ∧ t.run = s.run ∧ t.begun = s.begun ∧
    (i ≠ .outc → i ≠ .outi → t.out = s.out) ∧ (i ≠ .ini → t.intIn = s.intIn) ∧ (i ≠ .inc → t.charIn = s.charIn) ∧
    (i ≠ .ini → i ≠ .inc → t.request = s.request) ∧ (i ≠ .rand → t.rnd = s.rnd ∧ t.draws = s.draws) ∧
    (∃ new : List OutToken, t.out = s.out ++ new ∧ new.length ≤ 1) ∧
    (t.intIn = s.intIn ∨ ∃ x, s.intIn = x :: t.intIn) ∧ (t.charIn = s.charIn ∨ ∃ x, s.charIn = x :: t.charIn) ∧
    (t.rnd = s.rnd ∨ ∃ x, s.rnd = x :: t.rnd)

/-- The stack's frame: the cells below those an instruction pops are never touched (10_state R11), and the depth after
an instruction that completes is what it pops less, but never below empty, and what it pushes more (40_stack R79). -/
def Obligations.StackChangesOnlyByPopsAndPushes : Prop :=
  ∀ (i : Instr) (s t : State), exec i s = .next t →
    s.stk.drop (instrPops i) <:+ t.stk ∧
    (t.fkind = none → (i = .ini → s.intIn ≠ []) → (i = .inc → s.charIn ≠ []) →
      t.sp = s.sp - instrPops i + instrPushes i)

/-- No instruction reads the output back: with any history put before the output so far, a step does the same
(10_state R21, R24). -/
def Obligations.OutputHistoryDoesNotInfluenceTheRun : Prop :=
  ∀ (s t : State) (earlier : List OutToken), step s = .next t →
    step { s with out := earlier ++ s.out } = .next { t with out := earlier ++ t.out }

/-! ### Runs in string mode -/

/-- Over `n` cells without a quote a run in string mode pushes their codes in order, the last on top, and changes
nothing but the stack, the position and the model's record that a run has begun (log 18); a finite stack needs room for
the `n` codes (40_stack R75, 30_encoding R53; the cells of a straight wrapping line). -/
def Obligations.StringRunPushesTheCodesInOrder : Prop :=
  ∀ (n : Nat) (s : State), s.halted = false → s.fkind = none → s.run = true → s.request = none → s.strmode = true →
    (∀ d : Nat, s.depth = .cells d → s.sp + n ≤ d) →
    (∀ j : Nat, j < n → (State.advance^[j] s).fetch ≠ 0x22) →
    runSteps n s = .next { State.advance^[n] s with
      stk := ((List.range n).map fun j => BitVec.ofNat 32 (State.advance^[j] s).fetch.toNat).reverse ++ s.stk,
      begun := s.begun || decide (0 < n) }

/-- A quote alone on its row or column closes the string it opened after one turn: the other 79 (or 24) codes have been
pushed in order, string mode is off, and the position is one cell past the quote; a finite stack needs room for them
(44_system_io R122, 70_reset_and_hazards R174). The record that a run has begun is log 18. -/
def Obligations.LoneQuoteClosesItsOwnString : Prop :=
  ∀ (s : State) (n : Nat), n = (if s.dir = .right ∨ s.dir = .left then 80 else 25) →
    s.halted = false → s.fkind = none → s.run = true → s.request = none → s.strmode = false →
    (∀ d : Nat, s.depth = .cells d → s.sp + (n - 1) ≤ d) →
    s.fetch = 0x22 → (∀ j : Nat, 1 ≤ j → j < n → (State.advance^[j] s).fetch ≠ 0x22) →
    runSteps (n + 1) s = .next { s.advance with
      stk := ((List.range (n - 1)).map fun j => BitVec.ofNat 32 (State.advance^[j + 1] s).fetch.toNat).reverse ++ s.stk,
      begun := true }

/-! ### The host: the loader and the text of the output -/

/-- The loader makes the grid the program text stands for, from any grid: lines padded with spaces and cut at 80
characters, missing lines all spaces, lines past the 25th ignored; and it changes nothing else. With `run` up, or during
a run, it has no move (70_reset_and_hazards R165, R166, R170, 10_state R28, 20_memory R45). Rests on the spec's decisions
D14 and D20; when a run is under way, so that loading is no move, is the model's choice (log 18), and so is that a
forbidden move has no result (log 15). -/
def Obligations.LoaderMakesTheGridOfTheText : Prop :=
  ∀ (s : State) (lines : List (List Byte)),
    (s.run = false → s.inRun = false → s.grid.wf = true → ∃ g : Memory, s.loadText lines = some { s with grid := g } ∧ g.wf = true ∧
      ∀ (x : Fin 80) (y : Fin 25),
        (∀ (l : List Byte) (c : Byte), lines[y.val]? = some l → l[x.val]? = some c →
          g.read (y.val * 80 + x.val) = c) ∧
        (∀ l : List Byte, lines[y.val]? = some l → l[x.val]? = none → g.read (y.val * 80 + x.val) = 32) ∧
        (lines[y.val]? = none → g.read (y.val * 80 + x.val) = 32)) ∧
    (s.run = true ∨ s.inRun = true → s.loadText lines = none)

/-- The text of an integer token: a minus sign exactly for negative values, then decimal digits that read back as the
magnitude, with no leading zero but for 0 itself, then one space; at most 12 characters; a character token in 0..255 is
that byte (44_system_io R126). Rests on D17. -/
def Obligations.RenderedTextReadsBack : Prop :=
  (∀ v : Word, ∃ digits : List Byte,
    (OutToken.int v).render = some ((if v.toInt < 0 then [0x2D] else []) ++ digits ++ [0x20]) ∧
    (∀ b ∈ digits, 0x30 ≤ b.toNat ∧ b.toNat ≤ 0x39) ∧
    digits.foldl (fun n b => 10 * n + (b.toNat - 0x30)) 0 = v.toInt.natAbs ∧
    (digits.head? = some 0x30 → digits = [0x30]) ∧
    1 ≤ digits.length ∧ digits.length ≤ 10) ∧
  (∀ v : Word, 0 ≤ v.toInt → v.toInt ≤ 255 →
    (OutToken.char v).render = some [BitVec.ofNat 8 v.toInt.toNat]) ∧
  ∀ a b : List OutToken, renderAll (a ++ b) =
    (renderAll a).bind fun x => (renderAll b).map fun y => x ++ y

/-! ### The host and the hold -/

/-- What lifts the hold is the host's answer, or `RESET`, which abandons the step, and nothing else: dropping and raising
`run` or setting a draw leaves the core holding with the same request, position and stack; loading is no move at either
level of `run`, because a run is under way; the condition is `holding` at either level of `run`; and there is no answer
where none is waited for (44_system_io R129, 10_state R28, 60_exceptions R156, 70_reset_and_hazards R160, R167, R170).
That a forbidden move has no result is log 15; when a run is under way is log 18. -/
def Obligations.HoldEndsOnlyByAnswerOrReset : Prop :=
  (∀ (s t : State) (m : HostMove), s.holding = true → s.hostMove m = some t →
    (∃ a, m = .answerInt a ∧ s.request = some .int ∧ t.holding = false) ∨
    (∃ a, m = .answerChar a ∧ s.request = some .char ∧ t.holding = false) ∨
    (m = .reset ∧ t = s.rst ∧ t.request = none) ∨
    (t.holding = true ∧ t.inputRequest = s.inputRequest ∧ t.pcx = s.pcx ∧ t.pcy = s.pcy ∧ t.stk = s.stk)) ∧
  (∀ (s : State) (level : Bool) (x : Fin 80) (y : Fin 25) (c : Byte), s.requestWf = true → s.holding = true →
    (s.setRun level).hostMove (.load x y c) = none) ∧
  (∀ s : State, s.requestWf = true → s.holding = true →
    s.condition = .holding ∧ ∀ level : Bool, (s.setRun level).condition = .holding) ∧
  ∀ s : State, s.holding = false →
    (∀ a, s.hostMove (.answerInt a) = none) ∧ ∀ a, s.hostMove (.answerChar a) = none
end

