-- ==== Sys2Proof/Laws/Memory.lean ====
section
/-! SUPPORT. The grid memory: a read after a write, and the canonical form. -/

namespace Sys2Proof.Machine

theorem Memory.wfFrom_mono {lo lo' : Nat} {m : Memory} (h : lo' ≤ lo) (hm : m.wfFrom lo = true) :
    m.wfFrom lo' = true := by
  cases m with
  | nil => rfl
  | cons e m =>
    obtain ⟨a, b⟩ := e
    simp only [Memory.wfFrom, Bool.and_eq_true, decide_eq_true_eq] at hm ⊢
    exact ⟨⟨⟨by omega, hm.1.1.2⟩, hm.1.2⟩, hm.2⟩

/-- An address below all entries is not listed. -/
theorem Memory.read_of_lt {lo addr : Nat} {m : Memory} (hm : m.wfFrom lo = true) (h : addr < lo) :
    m.read addr = Config.unlistedCell := by
  induction m generalizing lo with
  | nil => rfl
  | cons e m ih =>
    obtain ⟨a, b⟩ := e
    simp only [Memory.wfFrom, Bool.and_eq_true, decide_eq_true_eq] at hm
    rw [Memory.read, if_neg (by omega)]
    exact ih hm.2 (by omega)

theorem Memory.read_consCell {lo addr : Nat} {m : Memory} (v : Byte) (hm : m.wfFrom lo = true) (h : addr < lo)
    (x : Nat) : (Memory.consCell addr v m).read x = if addr = x then v else m.read x := by
  unfold Memory.consCell
  split
  · next hv =>
    split
    · next hx => subst hx; rw [Memory.read_of_lt hm h, hv]
    · rfl
  · rfl

theorem Memory.wfFrom_consCell {lo addr : Nat} {m : Memory} (v : Byte) (hlo : lo ≤ addr)
    (hg : addr < Config.gridCells) (hm : m.wfFrom (addr + 1) = true) :
    (Memory.consCell addr v m).wfFrom lo = true := by
  unfold Memory.consCell
  split
  · exact Memory.wfFrom_mono (by omega) hm
  · next hv => simp [Memory.wfFrom, hlo, hg, hv, hm]

/-- A write in the grid changes what its own address reads as, and nothing else. -/
theorem Memory.read_write_of_wfFrom {lo : Nat} {m : Memory} (hm : m.wfFrom lo = true) (addr : Nat) (v : Byte)
    (x : Nat) : (m.write addr v).read x = if addr = x then v else m.read x := by
  induction m generalizing lo with
  | nil =>
    exact Memory.read_consCell (lo := addr + 1) v rfl (by omega) x
  | cons e m ih =>
    obtain ⟨a, b⟩ := e
    have hm' := hm
    simp only [Memory.wfFrom, Bool.and_eq_true, decide_eq_true_eq] at hm'
    rw [Memory.write]
    split
    · next h =>
      have hself : Memory.wfFrom a ((a, b) :: m) = true := by
        simp [Memory.wfFrom, hm'.1.1.2, hm'.1.2, hm'.2]
      exact Memory.read_consCell v hself h x
    · split
      · next _ h =>
        subst h
        rw [Memory.read_consCell v hm'.2 (by omega) x]
        simp only [Memory.read]
        split <;> rfl
      · next h1 h2 =>
        simp only [Memory.read]
        split
        · next hax => rw [if_neg (by omega)]
        · exact ih hm'.2

/-- `MemRead` after `MemWrite` (20_memory R34, R39). -/
theorem Memory.read_write {m : Memory} (hm : m.wf = true) (addr : Nat) (v : Byte) (x : Nat) :
    (m.write addr v).read x = if addr = x then v else m.read x :=
  Memory.read_write_of_wfFrom hm addr v x

theorem Memory.wfFrom_write {lo : Nat} {m : Memory} (hm : m.wfFrom lo = true) {addr : Nat} (v : Byte)
    (hlo : lo ≤ addr) (hg : addr < Config.gridCells) : (m.write addr v).wfFrom lo = true := by
  induction m generalizing lo with
  | nil => exact Memory.wfFrom_consCell v hlo hg rfl
  | cons e m ih =>
    obtain ⟨a, b⟩ := e
    have hm' := hm
    simp only [Memory.wfFrom, Bool.and_eq_true, decide_eq_true_eq] at hm'
    rw [Memory.write]
    split
    · next h =>
      have hself : Memory.wfFrom (addr + 1) ((a, b) :: m) = true := by
        simp [Memory.wfFrom, hm'.1.1.2, hm'.1.2, hm'.2]; omega
      exact Memory.wfFrom_consCell v hlo hg hself
    · split
      · next _ h => subst h; exact Memory.wfFrom_consCell v hlo hg hm'.2
      · next h1 h2 =>
        simp only [Memory.wfFrom, Bool.and_eq_true, decide_eq_true_eq]
        exact ⟨⟨⟨hm'.1.1.1, hm'.1.1.2⟩, hm'.1.2⟩, ih hm'.2 (by omega)⟩

/-- A write at an address of the grid keeps the canonical form. -/
theorem Memory.wf_write {m : Memory} (hm : m.wf = true) {addr : Nat} (v : Byte) (hg : addr < Config.gridCells) :
    (m.write addr v).wf = true :=
  Memory.wfFrom_write hm v (Nat.zero_le _) hg

theorem cellAddr_lt (x : Fin 80) (y : Fin 25) : cellAddr x y < Config.gridCells := by
  simp only [cellAddr, Config.gridCells, Config.gridW, Config.gridH]
  have := x.isLt; have := y.isLt; omega

/-- Two cells with the same linear address are the same cell (20_memory R33). -/
theorem cellAddr_inj {x x' : Fin 80} {y y' : Fin 25} : cellAddr x y = cellAddr x' y' ↔ x = x' ∧ y = y' := by
  simp only [cellAddr, Config.gridW, Fin.ext_iff]
  have := x.isLt; have := x'.isLt
  constructor
  · intro h; omega
  · rintro ⟨h1, h2⟩; rw [h1, h2]

/-- The bounds check lets exactly the cells of the grid through (20_memory R35). -/
theorem gridAddr_eq_some {x y : Word} {a : Nat} : gridAddr x y = some a ↔
    (0 ≤ x.toInt ∧ x.toInt < 80 ∧ 0 ≤ y.toInt ∧ y.toInt < 25) ∧ a = y.toInt.toNat * 80 + x.toInt.toNat := by
  have hw : (Config.gridW : Int) = 80 := rfl
  have hh : (Config.gridH : Int) = 25 := rfl
  have hn : Config.gridW = 80 := rfl
  unfold gridAddr
  rw [hw, hh, hn]
  by_cases h : x.toInt < 0 ∨ (80 : Int) ≤ x.toInt ∨ y.toInt < 0 ∨ (25 : Int) ≤ y.toInt
  · rw [if_pos h]; simp only [reduceCtorEq, false_iff]; omega
  · rw [if_neg h]; simp only [Option.some.injEq]; omega

theorem gridAddr_eq_none {x y : Word} : gridAddr x y = none ↔
    x.toInt < 0 ∨ 80 ≤ x.toInt ∨ y.toInt < 0 ∨ 25 ≤ y.toInt := by
  have hw : (Config.gridW : Int) = 80 := rfl
  have hh : (Config.gridH : Int) = 25 := rfl
  unfold gridAddr
  rw [hw, hh]
  by_cases h : x.toInt < 0 ∨ (80 : Int) ≤ x.toInt ∨ y.toInt < 0 ∨ (25 : Int) ≤ y.toInt
  · rw [if_pos h]; simp only [true_iff]; omega
  · rw [if_neg h]; simp only [reduceCtorEq, false_iff]; omega

/-- An address the bounds check lets through is in the grid. -/
theorem gridAddr_lt {x y : Word} {a : Nat} (h : gridAddr x y = some a) : a < Config.gridCells := by
  obtain ⟨⟨h1, h2, h3, h4⟩, rfl⟩ := gridAddr_eq_some.mp h
  simp only [Config.gridCells, Config.gridW, Config.gridH]
  omega

end Sys2Proof.Machine
end

