-- ==== Sys2Proof/Laws/State.lean ====
section
/-! SUPPORT. What each update of the state does to each field. -/

namespace Sys2Proof.Machine

/-! ### `setStk` -/

@[simp] theorem State.setStk_stk (s : State) (l : List Word) : (s.setStk l).stk = l := rfl
@[simp] theorem State.setStk_pcx (s : State) (l : List Word) : (s.setStk l).pcx = s.pcx := rfl
@[simp] theorem State.setStk_pcy (s : State) (l : List Word) : (s.setStk l).pcy = s.pcy := rfl
@[simp] theorem State.setStk_dir (s : State) (l : List Word) : (s.setStk l).dir = s.dir := rfl
@[simp] theorem State.setStk_strmode (s : State) (l : List Word) : (s.setStk l).strmode = s.strmode := rfl
@[simp] theorem State.setStk_halted (s : State) (l : List Word) : (s.setStk l).halted = s.halted := rfl
@[simp] theorem State.setStk_fkind (s : State) (l : List Word) : (s.setStk l).fkind = s.fkind := rfl
@[simp] theorem State.setStk_fchar (s : State) (l : List Word) : (s.setStk l).fchar = s.fchar := rfl
@[simp] theorem State.setStk_grid (s : State) (l : List Word) : (s.setStk l).grid = s.grid := rfl
@[simp] theorem State.setStk_depth (s : State) (l : List Word) : (s.setStk l).depth = s.depth := rfl
@[simp] theorem State.setStk_run (s : State) (l : List Word) : (s.setStk l).run = s.run := rfl
@[simp] theorem State.setStk_out (s : State) (l : List Word) : (s.setStk l).out = s.out := rfl
@[simp] theorem State.setStk_intIn (s : State) (l : List Word) : (s.setStk l).intIn = s.intIn := rfl
@[simp] theorem State.setStk_charIn (s : State) (l : List Word) : (s.setStk l).charIn = s.charIn := rfl
@[simp] theorem State.setStk_request (s : State) (l : List Word) : (s.setStk l).request = s.request := rfl
@[simp] theorem State.setStk_rnd (s : State) (l : List Word) : (s.setStk l).rnd = s.rnd := rfl
@[simp] theorem State.setStk_draws (s : State) (l : List Word) : (s.setStk l).draws = s.draws := rfl
@[simp] theorem State.setStk_begun (s : State) (l : List Word) : (s.setStk l).begun = s.begun := rfl

/-! ### `setDir` -/

@[simp] theorem State.setDir_stk (s : State) (d : Dir) : (s.setDir d).stk = s.stk := rfl
@[simp] theorem State.setDir_pcx (s : State) (d : Dir) : (s.setDir d).pcx = s.pcx := rfl
@[simp] theorem State.setDir_pcy (s : State) (d : Dir) : (s.setDir d).pcy = s.pcy := rfl
@[simp] theorem State.setDir_dir (s : State) (d : Dir) : (s.setDir d).dir = d := rfl
@[simp] theorem State.setDir_strmode (s : State) (d : Dir) : (s.setDir d).strmode = s.strmode := rfl
@[simp] theorem State.setDir_halted (s : State) (d : Dir) : (s.setDir d).halted = s.halted := rfl
@[simp] theorem State.setDir_fkind (s : State) (d : Dir) : (s.setDir d).fkind = s.fkind := rfl
@[simp] theorem State.setDir_fchar (s : State) (d : Dir) : (s.setDir d).fchar = s.fchar := rfl
@[simp] theorem State.setDir_grid (s : State) (d : Dir) : (s.setDir d).grid = s.grid := rfl
@[simp] theorem State.setDir_depth (s : State) (d : Dir) : (s.setDir d).depth = s.depth := rfl
@[simp] theorem State.setDir_run (s : State) (d : Dir) : (s.setDir d).run = s.run := rfl
@[simp] theorem State.setDir_out (s : State) (d : Dir) : (s.setDir d).out = s.out := rfl
@[simp] theorem State.setDir_intIn (s : State) (d : Dir) : (s.setDir d).intIn = s.intIn := rfl
@[simp] theorem State.setDir_charIn (s : State) (d : Dir) : (s.setDir d).charIn = s.charIn := rfl
@[simp] theorem State.setDir_request (s : State) (d : Dir) : (s.setDir d).request = s.request := rfl
@[simp] theorem State.setDir_rnd (s : State) (d : Dir) : (s.setDir d).rnd = s.rnd := rfl
@[simp] theorem State.setDir_draws (s : State) (d : Dir) : (s.setDir d).draws = s.draws := rfl
@[simp] theorem State.setDir_begun (s : State) (d : Dir) : (s.setDir d).begun = s.begun := rfl

/-! ### `setStrmode` -/

@[simp] theorem State.setStrmode_stk (s : State) (b : Bool) : (s.setStrmode b).stk = s.stk := rfl
@[simp] theorem State.setStrmode_pcx (s : State) (b : Bool) : (s.setStrmode b).pcx = s.pcx := rfl
@[simp] theorem State.setStrmode_pcy (s : State) (b : Bool) : (s.setStrmode b).pcy = s.pcy := rfl
@[simp] theorem State.setStrmode_dir (s : State) (b : Bool) : (s.setStrmode b).dir = s.dir := rfl
@[simp] theorem State.setStrmode_strmode (s : State) (b : Bool) : (s.setStrmode b).strmode = b := rfl
@[simp] theorem State.setStrmode_halted (s : State) (b : Bool) : (s.setStrmode b).halted = s.halted := rfl
@[simp] theorem State.setStrmode_fkind (s : State) (b : Bool) : (s.setStrmode b).fkind = s.fkind := rfl
@[simp] theorem State.setStrmode_fchar (s : State) (b : Bool) : (s.setStrmode b).fchar = s.fchar := rfl
@[simp] theorem State.setStrmode_grid (s : State) (b : Bool) : (s.setStrmode b).grid = s.grid := rfl
@[simp] theorem State.setStrmode_depth (s : State) (b : Bool) : (s.setStrmode b).depth = s.depth := rfl
@[simp] theorem State.setStrmode_run (s : State) (b : Bool) : (s.setStrmode b).run = s.run := rfl
@[simp] theorem State.setStrmode_out (s : State) (b : Bool) : (s.setStrmode b).out = s.out := rfl
@[simp] theorem State.setStrmode_intIn (s : State) (b : Bool) : (s.setStrmode b).intIn = s.intIn := rfl
@[simp] theorem State.setStrmode_charIn (s : State) (b : Bool) : (s.setStrmode b).charIn = s.charIn := rfl
@[simp] theorem State.setStrmode_request (s : State) (b : Bool) : (s.setStrmode b).request = s.request := rfl
@[simp] theorem State.setStrmode_rnd (s : State) (b : Bool) : (s.setStrmode b).rnd = s.rnd := rfl
@[simp] theorem State.setStrmode_draws (s : State) (b : Bool) : (s.setStrmode b).draws = s.draws := rfl
@[simp] theorem State.setStrmode_begun (s : State) (b : Bool) : (s.setStrmode b).begun = s.begun := rfl

/-! ### `setHalted` -/

@[simp] theorem State.setHalted_stk (s : State) (b : Bool) : (s.setHalted b).stk = s.stk := rfl
@[simp] theorem State.setHalted_pcx (s : State) (b : Bool) : (s.setHalted b).pcx = s.pcx := rfl
@[simp] theorem State.setHalted_pcy (s : State) (b : Bool) : (s.setHalted b).pcy = s.pcy := rfl
@[simp] theorem State.setHalted_dir (s : State) (b : Bool) : (s.setHalted b).dir = s.dir := rfl
@[simp] theorem State.setHalted_strmode (s : State) (b : Bool) : (s.setHalted b).strmode = s.strmode := rfl
@[simp] theorem State.setHalted_halted (s : State) (b : Bool) : (s.setHalted b).halted = b := rfl
@[simp] theorem State.setHalted_fkind (s : State) (b : Bool) : (s.setHalted b).fkind = s.fkind := rfl
@[simp] theorem State.setHalted_fchar (s : State) (b : Bool) : (s.setHalted b).fchar = s.fchar := rfl
@[simp] theorem State.setHalted_grid (s : State) (b : Bool) : (s.setHalted b).grid = s.grid := rfl
@[simp] theorem State.setHalted_depth (s : State) (b : Bool) : (s.setHalted b).depth = s.depth := rfl
@[simp] theorem State.setHalted_run (s : State) (b : Bool) : (s.setHalted b).run = s.run := rfl
@[simp] theorem State.setHalted_out (s : State) (b : Bool) : (s.setHalted b).out = s.out := rfl
@[simp] theorem State.setHalted_intIn (s : State) (b : Bool) : (s.setHalted b).intIn = s.intIn := rfl
@[simp] theorem State.setHalted_charIn (s : State) (b : Bool) : (s.setHalted b).charIn = s.charIn := rfl
@[simp] theorem State.setHalted_request (s : State) (b : Bool) : (s.setHalted b).request = s.request := rfl
@[simp] theorem State.setHalted_rnd (s : State) (b : Bool) : (s.setHalted b).rnd = s.rnd := rfl
@[simp] theorem State.setHalted_draws (s : State) (b : Bool) : (s.setHalted b).draws = s.draws := rfl
@[simp] theorem State.setHalted_begun (s : State) (b : Bool) : (s.setHalted b).begun = s.begun := rfl

/-! ### `setGrid` -/

@[simp] theorem State.setGrid_stk (s : State) (m : Memory) : (s.setGrid m).stk = s.stk := rfl
@[simp] theorem State.setGrid_pcx (s : State) (m : Memory) : (s.setGrid m).pcx = s.pcx := rfl
@[simp] theorem State.setGrid_pcy (s : State) (m : Memory) : (s.setGrid m).pcy = s.pcy := rfl
@[simp] theorem State.setGrid_dir (s : State) (m : Memory) : (s.setGrid m).dir = s.dir := rfl
@[simp] theorem State.setGrid_strmode (s : State) (m : Memory) : (s.setGrid m).strmode = s.strmode := rfl
@[simp] theorem State.setGrid_halted (s : State) (m : Memory) : (s.setGrid m).halted = s.halted := rfl
@[simp] theorem State.setGrid_fkind (s : State) (m : Memory) : (s.setGrid m).fkind = s.fkind := rfl
@[simp] theorem State.setGrid_fchar (s : State) (m : Memory) : (s.setGrid m).fchar = s.fchar := rfl
@[simp] theorem State.setGrid_grid (s : State) (m : Memory) : (s.setGrid m).grid = m := rfl
@[simp] theorem State.setGrid_depth (s : State) (m : Memory) : (s.setGrid m).depth = s.depth := rfl
@[simp] theorem State.setGrid_run (s : State) (m : Memory) : (s.setGrid m).run = s.run := rfl
@[simp] theorem State.setGrid_out (s : State) (m : Memory) : (s.setGrid m).out = s.out := rfl
@[simp] theorem State.setGrid_intIn (s : State) (m : Memory) : (s.setGrid m).intIn = s.intIn := rfl
@[simp] theorem State.setGrid_charIn (s : State) (m : Memory) : (s.setGrid m).charIn = s.charIn := rfl
@[simp] theorem State.setGrid_request (s : State) (m : Memory) : (s.setGrid m).request = s.request := rfl
@[simp] theorem State.setGrid_rnd (s : State) (m : Memory) : (s.setGrid m).rnd = s.rnd := rfl
@[simp] theorem State.setGrid_draws (s : State) (m : Memory) : (s.setGrid m).draws = s.draws := rfl
@[simp] theorem State.setGrid_begun (s : State) (m : Memory) : (s.setGrid m).begun = s.begun := rfl

/-! ### `setIntIn` -/

@[simp] theorem State.setIntIn_stk (s : State) (l : List IntToken) : (s.setIntIn l).stk = s.stk := rfl
@[simp] theorem State.setIntIn_pcx (s : State) (l : List IntToken) : (s.setIntIn l).pcx = s.pcx := rfl
@[simp] theorem State.setIntIn_pcy (s : State) (l : List IntToken) : (s.setIntIn l).pcy = s.pcy := rfl
@[simp] theorem State.setIntIn_dir (s : State) (l : List IntToken) : (s.setIntIn l).dir = s.dir := rfl
@[simp] theorem State.setIntIn_strmode (s : State) (l : List IntToken) : (s.setIntIn l).strmode = s.strmode := rfl
@[simp] theorem State.setIntIn_halted (s : State) (l : List IntToken) : (s.setIntIn l).halted = s.halted := rfl
@[simp] theorem State.setIntIn_fkind (s : State) (l : List IntToken) : (s.setIntIn l).fkind = s.fkind := rfl
@[simp] theorem State.setIntIn_fchar (s : State) (l : List IntToken) : (s.setIntIn l).fchar = s.fchar := rfl
@[simp] theorem State.setIntIn_grid (s : State) (l : List IntToken) : (s.setIntIn l).grid = s.grid := rfl
@[simp] theorem State.setIntIn_depth (s : State) (l : List IntToken) : (s.setIntIn l).depth = s.depth := rfl
@[simp] theorem State.setIntIn_run (s : State) (l : List IntToken) : (s.setIntIn l).run = s.run := rfl
@[simp] theorem State.setIntIn_out (s : State) (l : List IntToken) : (s.setIntIn l).out = s.out := rfl
@[simp] theorem State.setIntIn_intIn (s : State) (l : List IntToken) : (s.setIntIn l).intIn = l := rfl
@[simp] theorem State.setIntIn_charIn (s : State) (l : List IntToken) : (s.setIntIn l).charIn = s.charIn := rfl
@[simp] theorem State.setIntIn_request (s : State) (l : List IntToken) : (s.setIntIn l).request = s.request := rfl
@[simp] theorem State.setIntIn_rnd (s : State) (l : List IntToken) : (s.setIntIn l).rnd = s.rnd := rfl
@[simp] theorem State.setIntIn_draws (s : State) (l : List IntToken) : (s.setIntIn l).draws = s.draws := rfl
@[simp] theorem State.setIntIn_begun (s : State) (l : List IntToken) : (s.setIntIn l).begun = s.begun := rfl

/-! ### `setCharIn` -/

@[simp] theorem State.setCharIn_stk (s : State) (l : List CharToken) : (s.setCharIn l).stk = s.stk := rfl
@[simp] theorem State.setCharIn_pcx (s : State) (l : List CharToken) : (s.setCharIn l).pcx = s.pcx := rfl
@[simp] theorem State.setCharIn_pcy (s : State) (l : List CharToken) : (s.setCharIn l).pcy = s.pcy := rfl
@[simp] theorem State.setCharIn_dir (s : State) (l : List CharToken) : (s.setCharIn l).dir = s.dir := rfl
@[simp] theorem State.setCharIn_strmode (s : State) (l : List CharToken) : (s.setCharIn l).strmode = s.strmode := rfl
@[simp] theorem State.setCharIn_halted (s : State) (l : List CharToken) : (s.setCharIn l).halted = s.halted := rfl
@[simp] theorem State.setCharIn_fkind (s : State) (l : List CharToken) : (s.setCharIn l).fkind = s.fkind := rfl
@[simp] theorem State.setCharIn_fchar (s : State) (l : List CharToken) : (s.setCharIn l).fchar = s.fchar := rfl
@[simp] theorem State.setCharIn_grid (s : State) (l : List CharToken) : (s.setCharIn l).grid = s.grid := rfl
@[simp] theorem State.setCharIn_depth (s : State) (l : List CharToken) : (s.setCharIn l).depth = s.depth := rfl
@[simp] theorem State.setCharIn_run (s : State) (l : List CharToken) : (s.setCharIn l).run = s.run := rfl
@[simp] theorem State.setCharIn_out (s : State) (l : List CharToken) : (s.setCharIn l).out = s.out := rfl
@[simp] theorem State.setCharIn_intIn (s : State) (l : List CharToken) : (s.setCharIn l).intIn = s.intIn := rfl
@[simp] theorem State.setCharIn_charIn (s : State) (l : List CharToken) : (s.setCharIn l).charIn = l := rfl
@[simp] theorem State.setCharIn_request (s : State) (l : List CharToken) : (s.setCharIn l).request = s.request := rfl
@[simp] theorem State.setCharIn_rnd (s : State) (l : List CharToken) : (s.setCharIn l).rnd = s.rnd := rfl
@[simp] theorem State.setCharIn_draws (s : State) (l : List CharToken) : (s.setCharIn l).draws = s.draws := rfl
@[simp] theorem State.setCharIn_begun (s : State) (l : List CharToken) : (s.setCharIn l).begun = s.begun := rfl

/-! ### `setRequest` -/

@[simp] theorem State.setRequest_stk (s : State) (r : Option InKind) : (s.setRequest r).stk = s.stk := rfl
@[simp] theorem State.setRequest_pcx (s : State) (r : Option InKind) : (s.setRequest r).pcx = s.pcx := rfl
@[simp] theorem State.setRequest_pcy (s : State) (r : Option InKind) : (s.setRequest r).pcy = s.pcy := rfl
@[simp] theorem State.setRequest_dir (s : State) (r : Option InKind) : (s.setRequest r).dir = s.dir := rfl
@[simp] theorem State.setRequest_strmode (s : State) (r : Option InKind) : (s.setRequest r).strmode = s.strmode := rfl
@[simp] theorem State.setRequest_halted (s : State) (r : Option InKind) : (s.setRequest r).halted = s.halted := rfl
@[simp] theorem State.setRequest_fkind (s : State) (r : Option InKind) : (s.setRequest r).fkind = s.fkind := rfl
@[simp] theorem State.setRequest_fchar (s : State) (r : Option InKind) : (s.setRequest r).fchar = s.fchar := rfl
@[simp] theorem State.setRequest_grid (s : State) (r : Option InKind) : (s.setRequest r).grid = s.grid := rfl
@[simp] theorem State.setRequest_depth (s : State) (r : Option InKind) : (s.setRequest r).depth = s.depth := rfl
@[simp] theorem State.setRequest_run (s : State) (r : Option InKind) : (s.setRequest r).run = s.run := rfl
@[simp] theorem State.setRequest_out (s : State) (r : Option InKind) : (s.setRequest r).out = s.out := rfl
@[simp] theorem State.setRequest_intIn (s : State) (r : Option InKind) : (s.setRequest r).intIn = s.intIn := rfl
@[simp] theorem State.setRequest_charIn (s : State) (r : Option InKind) : (s.setRequest r).charIn = s.charIn := rfl
@[simp] theorem State.setRequest_request (s : State) (r : Option InKind) : (s.setRequest r).request = r := rfl
@[simp] theorem State.setRequest_rnd (s : State) (r : Option InKind) : (s.setRequest r).rnd = s.rnd := rfl
@[simp] theorem State.setRequest_draws (s : State) (r : Option InKind) : (s.setRequest r).draws = s.draws := rfl
@[simp] theorem State.setRequest_begun (s : State) (r : Option InKind) : (s.setRequest r).begun = s.begun := rfl

/-! ### `setBegun` -/

@[simp] theorem State.setBegun_stk (s : State) (b : Bool) : (s.setBegun b).stk = s.stk := rfl
@[simp] theorem State.setBegun_pcx (s : State) (b : Bool) : (s.setBegun b).pcx = s.pcx := rfl
@[simp] theorem State.setBegun_pcy (s : State) (b : Bool) : (s.setBegun b).pcy = s.pcy := rfl
@[simp] theorem State.setBegun_dir (s : State) (b : Bool) : (s.setBegun b).dir = s.dir := rfl
@[simp] theorem State.setBegun_strmode (s : State) (b : Bool) : (s.setBegun b).strmode = s.strmode := rfl
@[simp] theorem State.setBegun_halted (s : State) (b : Bool) : (s.setBegun b).halted = s.halted := rfl
@[simp] theorem State.setBegun_fkind (s : State) (b : Bool) : (s.setBegun b).fkind = s.fkind := rfl
@[simp] theorem State.setBegun_fchar (s : State) (b : Bool) : (s.setBegun b).fchar = s.fchar := rfl
@[simp] theorem State.setBegun_grid (s : State) (b : Bool) : (s.setBegun b).grid = s.grid := rfl
@[simp] theorem State.setBegun_depth (s : State) (b : Bool) : (s.setBegun b).depth = s.depth := rfl
@[simp] theorem State.setBegun_run (s : State) (b : Bool) : (s.setBegun b).run = s.run := rfl
@[simp] theorem State.setBegun_out (s : State) (b : Bool) : (s.setBegun b).out = s.out := rfl
@[simp] theorem State.setBegun_intIn (s : State) (b : Bool) : (s.setBegun b).intIn = s.intIn := rfl
@[simp] theorem State.setBegun_charIn (s : State) (b : Bool) : (s.setBegun b).charIn = s.charIn := rfl
@[simp] theorem State.setBegun_request (s : State) (b : Bool) : (s.setBegun b).request = s.request := rfl
@[simp] theorem State.setBegun_rnd (s : State) (b : Bool) : (s.setBegun b).rnd = s.rnd := rfl
@[simp] theorem State.setBegun_draws (s : State) (b : Bool) : (s.setBegun b).draws = s.draws := rfl
@[simp] theorem State.setBegun_begun (s : State) (b : Bool) : (s.setBegun b).begun = b := rfl

@[simp] theorem State.setBegun_sp (s : State) (b : Bool) : (s.setBegun b).sp = s.sp := rfl
@[simp] theorem State.setBegun_full (s : State) (b : Bool) : (s.setBegun b).full = s.full := rfl
@[simp] theorem State.setBegun_fetch (s : State) (b : Bool) : (s.setBegun b).fetch = s.fetch := rfl
@[simp] theorem State.setBegun_operand (s : State) (b : Bool) (n : Nat) : (s.setBegun b).operand n = s.operand n := rfl

/-- A core that has begun its run is what a further step begins in. -/
theorem State.setBegun_true_of_begun {s : State} (h : s.begun = true) : s.setBegun true = s := by
  unfold State.setBegun
  rw [← h]

/-! ### `emit` -/

@[simp] theorem State.emit_stk (s : State) (t : OutToken) : (s.emit t).stk = s.stk := rfl
@[simp] theorem State.emit_pcx (s : State) (t : OutToken) : (s.emit t).pcx = s.pcx := rfl
@[simp] theorem State.emit_pcy (s : State) (t : OutToken) : (s.emit t).pcy = s.pcy := rfl
@[simp] theorem State.emit_dir (s : State) (t : OutToken) : (s.emit t).dir = s.dir := rfl
@[simp] theorem State.emit_strmode (s : State) (t : OutToken) : (s.emit t).strmode = s.strmode := rfl
@[simp] theorem State.emit_halted (s : State) (t : OutToken) : (s.emit t).halted = s.halted := rfl
@[simp] theorem State.emit_fkind (s : State) (t : OutToken) : (s.emit t).fkind = s.fkind := rfl
@[simp] theorem State.emit_fchar (s : State) (t : OutToken) : (s.emit t).fchar = s.fchar := rfl
@[simp] theorem State.emit_grid (s : State) (t : OutToken) : (s.emit t).grid = s.grid := rfl
@[simp] theorem State.emit_depth (s : State) (t : OutToken) : (s.emit t).depth = s.depth := rfl
@[simp] theorem State.emit_run (s : State) (t : OutToken) : (s.emit t).run = s.run := rfl
@[simp] theorem State.emit_out (s : State) (t : OutToken) : (s.emit t).out = s.out ++ [t] := rfl
@[simp] theorem State.emit_intIn (s : State) (t : OutToken) : (s.emit t).intIn = s.intIn := rfl
@[simp] theorem State.emit_charIn (s : State) (t : OutToken) : (s.emit t).charIn = s.charIn := rfl
@[simp] theorem State.emit_request (s : State) (t : OutToken) : (s.emit t).request = s.request := rfl
@[simp] theorem State.emit_rnd (s : State) (t : OutToken) : (s.emit t).rnd = s.rnd := rfl
@[simp] theorem State.emit_draws (s : State) (t : OutToken) : (s.emit t).draws = s.draws := rfl
@[simp] theorem State.emit_begun (s : State) (t : OutToken) : (s.emit t).begun = s.begun := rfl

/-! ### `raise` -/

@[simp] theorem State.raise_stk (s : State) (k : FaultKind) (c : Byte) : (s.raise k c).stk = s.stk := rfl
@[simp] theorem State.raise_pcx (s : State) (k : FaultKind) (c : Byte) : (s.raise k c).pcx = s.pcx := rfl
@[simp] theorem State.raise_pcy (s : State) (k : FaultKind) (c : Byte) : (s.raise k c).pcy = s.pcy := rfl
@[simp] theorem State.raise_dir (s : State) (k : FaultKind) (c : Byte) : (s.raise k c).dir = s.dir := rfl
@[simp] theorem State.raise_strmode (s : State) (k : FaultKind) (c : Byte) : (s.raise k c).strmode = s.strmode := rfl
@[simp] theorem State.raise_halted (s : State) (k : FaultKind) (c : Byte) : (s.raise k c).halted = s.halted := rfl
@[simp] theorem State.raise_fkind (s : State) (k : FaultKind) (c : Byte) : (s.raise k c).fkind = some k := rfl
@[simp] theorem State.raise_fchar (s : State) (k : FaultKind) (c : Byte) : (s.raise k c).fchar = c := rfl
@[simp] theorem State.raise_grid (s : State) (k : FaultKind) (c : Byte) : (s.raise k c).grid = s.grid := rfl
@[simp] theorem State.raise_depth (s : State) (k : FaultKind) (c : Byte) : (s.raise k c).depth = s.depth := rfl
@[simp] theorem State.raise_run (s : State) (k : FaultKind) (c : Byte) : (s.raise k c).run = s.run := rfl
@[simp] theorem State.raise_out (s : State) (k : FaultKind) (c : Byte) : (s.raise k c).out = s.out := rfl
@[simp] theorem State.raise_intIn (s : State) (k : FaultKind) (c : Byte) : (s.raise k c).intIn = s.intIn := rfl
@[simp] theorem State.raise_charIn (s : State) (k : FaultKind) (c : Byte) : (s.raise k c).charIn = s.charIn := rfl
@[simp] theorem State.raise_request (s : State) (k : FaultKind) (c : Byte) : (s.raise k c).request = s.request := rfl
@[simp] theorem State.raise_rnd (s : State) (k : FaultKind) (c : Byte) : (s.raise k c).rnd = s.rnd := rfl
@[simp] theorem State.raise_draws (s : State) (k : FaultKind) (c : Byte) : (s.raise k c).draws = s.draws := rfl
@[simp] theorem State.raise_begun (s : State) (k : FaultKind) (c : Byte) : (s.raise k c).begun = s.begun := rfl

/-! ### `setRun` and `rst`: the host's -/

@[simp] theorem State.setRun_stk (s : State) (b : Bool) : (s.setRun b).stk = s.stk := rfl
@[simp] theorem State.setRun_pcx (s : State) (b : Bool) : (s.setRun b).pcx = s.pcx := rfl
@[simp] theorem State.setRun_pcy (s : State) (b : Bool) : (s.setRun b).pcy = s.pcy := rfl
@[simp] theorem State.setRun_dir (s : State) (b : Bool) : (s.setRun b).dir = s.dir := rfl
@[simp] theorem State.setRun_strmode (s : State) (b : Bool) : (s.setRun b).strmode = s.strmode := rfl
@[simp] theorem State.setRun_halted (s : State) (b : Bool) : (s.setRun b).halted = s.halted := rfl
@[simp] theorem State.setRun_fkind (s : State) (b : Bool) : (s.setRun b).fkind = s.fkind := rfl
@[simp] theorem State.setRun_fchar (s : State) (b : Bool) : (s.setRun b).fchar = s.fchar := rfl
@[simp] theorem State.setRun_grid (s : State) (b : Bool) : (s.setRun b).grid = s.grid := rfl
@[simp] theorem State.setRun_depth (s : State) (b : Bool) : (s.setRun b).depth = s.depth := rfl
@[simp] theorem State.setRun_run (s : State) (b : Bool) : (s.setRun b).run = b := rfl
@[simp] theorem State.setRun_out (s : State) (b : Bool) : (s.setRun b).out = s.out := rfl
@[simp] theorem State.setRun_intIn (s : State) (b : Bool) : (s.setRun b).intIn = s.intIn := rfl
@[simp] theorem State.setRun_charIn (s : State) (b : Bool) : (s.setRun b).charIn = s.charIn := rfl
@[simp] theorem State.setRun_request (s : State) (b : Bool) : (s.setRun b).request = s.request := rfl
@[simp] theorem State.setRun_rnd (s : State) (b : Bool) : (s.setRun b).rnd = s.rnd := rfl
@[simp] theorem State.setRun_draws (s : State) (b : Bool) : (s.setRun b).draws = s.draws := rfl
@[simp] theorem State.setRun_begun (s : State) (b : Bool) : (s.setRun b).begun = s.begun := rfl

@[simp] theorem State.rst_stk (s : State) : s.rst.stk = [] := rfl
@[simp] theorem State.rst_pcx (s : State) : s.rst.pcx = 0 := rfl
@[simp] theorem State.rst_pcy (s : State) : s.rst.pcy = 0 := rfl
@[simp] theorem State.rst_dir (s : State) : s.rst.dir = .right := rfl
@[simp] theorem State.rst_strmode (s : State) : s.rst.strmode = false := rfl
@[simp] theorem State.rst_halted (s : State) : s.rst.halted = false := rfl
@[simp] theorem State.rst_fkind (s : State) : s.rst.fkind = none := rfl
@[simp] theorem State.rst_fchar (s : State) : s.rst.fchar = 0 := rfl
@[simp] theorem State.rst_grid (s : State) : s.rst.grid = s.grid := rfl
@[simp] theorem State.rst_depth (s : State) : s.rst.depth = s.depth := rfl
@[simp] theorem State.rst_run (s : State) : s.rst.run = s.run := rfl
@[simp] theorem State.rst_out (s : State) : s.rst.out = [] := rfl
@[simp] theorem State.rst_intIn (s : State) : s.rst.intIn = [] := rfl
@[simp] theorem State.rst_charIn (s : State) : s.rst.charIn = [] := rfl
@[simp] theorem State.rst_request (s : State) : s.rst.request = none := rfl
@[simp] theorem State.rst_rnd (s : State) : s.rst.rnd = [] := rfl
@[simp] theorem State.rst_draws (s : State) : s.rst.draws = s.draws := rfl
@[simp] theorem State.rst_begun (s : State) : s.rst.begun = false := rfl

/-! ### `advance` moves the position and nothing else (42_pc_control R100, R101) -/

@[simp] theorem State.advance_stk (s : State) : s.advance.stk = s.stk := by
  unfold State.advance; split <;> rfl
@[simp] theorem State.advance_dir (s : State) : s.advance.dir = s.dir := by
  unfold State.advance; split <;> rfl
@[simp] theorem State.advance_strmode (s : State) : s.advance.strmode = s.strmode := by
  unfold State.advance; split <;> rfl
@[simp] theorem State.advance_halted (s : State) : s.advance.halted = s.halted := by
  unfold State.advance; split <;> rfl
@[simp] theorem State.advance_fkind (s : State) : s.advance.fkind = s.fkind := by
  unfold State.advance; split <;> rfl
@[simp] theorem State.advance_fchar (s : State) : s.advance.fchar = s.fchar := by
  unfold State.advance; split <;> rfl
@[simp] theorem State.advance_grid (s : State) : s.advance.grid = s.grid := by
  unfold State.advance; split <;> rfl
@[simp] theorem State.advance_depth (s : State) : s.advance.depth = s.depth := by
  unfold State.advance; split <;> rfl
@[simp] theorem State.advance_run (s : State) : s.advance.run = s.run := by
  unfold State.advance; split <;> rfl
@[simp] theorem State.advance_out (s : State) : s.advance.out = s.out := by
  unfold State.advance; split <;> rfl
@[simp] theorem State.advance_intIn (s : State) : s.advance.intIn = s.intIn := by
  unfold State.advance; split <;> rfl
@[simp] theorem State.advance_charIn (s : State) : s.advance.charIn = s.charIn := by
  unfold State.advance; split <;> rfl
@[simp] theorem State.advance_request (s : State) : s.advance.request = s.request := by
  unfold State.advance; split <;> rfl
@[simp] theorem State.advance_rnd (s : State) : s.advance.rnd = s.rnd := by
  unfold State.advance; split <;> rfl
@[simp] theorem State.advance_draws (s : State) : s.advance.draws = s.draws := by
  unfold State.advance; split <;> rfl
@[simp] theorem State.advance_begun (s : State) : s.advance.begun = s.begun := by
  unfold State.advance; split <;> rfl

/-! ### Views that depend on few fields -/

@[simp] theorem State.advance_sp (s : State) : s.advance.sp = s.sp := by simp [State.sp]
@[simp] theorem State.advance_full (s : State) : s.advance.full = s.full := by simp [State.full]
@[simp] theorem State.setStk_sp (s : State) (l : List Word) : (s.setStk l).sp = l.length := rfl
@[simp] theorem State.raise_sp (s : State) (k : FaultKind) (c : Byte) : (s.raise k c).sp = s.sp := rfl
@[simp] theorem State.raise_full (s : State) (k : FaultKind) (c : Byte) : (s.raise k c).full = s.full := rfl
@[simp] theorem State.raise_fetch (s : State) (k : FaultKind) (c : Byte) : (s.raise k c).fetch = s.fetch := rfl

end Sys2Proof.Machine
end

