-- ==== Sys2Proof/Laws/Ops.lean ====
section
/-! SUPPORT. What each shared operation does, said once. -/

namespace Sys2Proof.Machine

/-! ### The stack -/

theorem State.setStk_self (s : State) : s.setStk s.stk = s := rfl

@[simp] theorem State.setStk_setStk (s : State) (l l' : List Word) : (s.setStk l).setStk l' = s.setStk l' := rfl

/-- `pop()` answers the top operand and drops one cell, if there is one (40_stack R71). -/
theorem pop_eq (s : State) : pop s = (s.operand 0, s.setStk (s.stk.drop 1)) := by
  unfold pop State.operand
  split
  · next h =>
    have hs : s.setStk [] = s := by rw [← h]; rfl
    rw [h, List.drop_nil, hs]
    rfl
  · next h => rw [h]; rfl

@[simp] theorem State.operand_setStk (s : State) (l : List Word) (n : Nat) : (s.setStk l).operand n = l.getD n 0 := rfl

theorem State.operand_setStk_drop (s : State) (k n : Nat) :
    (s.setStk (s.stk.drop k)).operand n = s.operand (k + n) := by
  simp [State.operand, List.getD_eq_getElem?_getD, List.getElem?_drop]

theorem State.stackWf_iff (s : State) : s.stackWf = true ↔
    ∀ n, s.depth = .cells n → 2 ≤ n ∧ s.sp ≤ n := by
  cases hd : s.depth with
  | unbounded => simp [State.stackWf, Depth.wf, Depth.admits, hd]
  | cells n => simp [State.stackWf, Depth.wf, Depth.admits, hd]

theorem State.full_iff (s : State) : s.full = true ↔ ∃ n, s.depth = .cells n ∧ s.sp = n := by
  cases hd : s.depth with
  | unbounded => simp [State.full, Depth.isReached, hd]
  | cells n => simp [State.full, Depth.isReached, hd, eq_comm]

theorem State.full_eq_false_iff (s : State) : s.full = false ↔ ∀ n, s.depth = .cells n → s.sp ≠ n := by
  cases hd : s.depth with
  | unbounded => simp [State.full, Depth.isReached, hd]
  | cells n => simp [State.full, Depth.isReached, hd]

/-- A push is on top, or raises StackOverflow (40_stack R70). -/
theorem push_of_not_full {s : State} (v : Word) (h : s.full = false) : push v s = .done (s.setStk (v :: s.stk)) := by
  simp [push, h]

theorem push_of_full {s : State} (v : Word) (h : s.full = true) : push v s = .raised .stackOverflow := by
  simp [push, h]

/-- After dropping two cells of a stack within its capacity there is room for one (41_arithmetic R85). -/
theorem State.not_full_drop {s : State} (h : s.stackWf = true) {k : Nat} (hk : 1 ≤ k) :
    (s.setStk (s.stk.drop k)).full = false := by
  rw [State.stackWf_iff] at h
  rw [State.full_eq_false_iff]
  intro n hn
  have := h n hn
  simp only [State.setStk_sp, List.length_drop, State.setStk_depth] at hn ⊢
  have hsp : s.sp = s.stk.length := rfl
  omega

/-- A two-operand instruction replaces both operands by one result, and never overflows (41_arithmetic R85). -/
theorem binary_eq {s : State} (f : Word → Word → Word) (h : s.stackWf = true) :
    binary f s = .done (s.setStk (f (s.operand 1) (s.operand 0) :: s.stk.drop 2)) := by
  simp only [binary, pop_eq, State.operand_setStk_drop, State.setStk_stk, List.drop_drop, State.setStk_setStk]
  rw [push_of_not_full _ (State.not_full_drop h (by omega))]
  rfl

/-- A one-operand instruction replaces its operand by the result, and never overflows (41_arithmetic R91). -/
theorem unary_eq {s : State} (f : Word → Word) (h : s.stackWf = true) :
    unary f s = .done (s.setStk (f (s.operand 0) :: s.stk.drop 1)) := by
  simp only [unary, pop_eq]
  rw [push_of_not_full _ (State.not_full_drop h (by omega))]
  rfl

/-- `swap()` on a stack within its capacity (40_stack R72). -/
theorem swap_eq {s : State} (h : s.stackWf = true) :
    swap s = .done (s.setStk (s.operand 1 :: s.operand 0 :: s.stk.drop 2)) := by
  simp only [swap, pop_eq, State.operand_setStk_drop, State.setStk_stk, List.drop_drop, State.setStk_setStk]
  rw [push_of_not_full _ (State.not_full_drop h (by omega))]
  simp only [Effect.andThen, State.setStk_stk, State.setStk_setStk]
  rw [push_of_not_full _ ?_]
  · rfl
  · rw [State.full_eq_false_iff]
    intro n hn
    have := (State.stackWf_iff s).mp h n hn
    have hsp : s.sp = s.stk.length := rfl
    simp only [State.setStk_sp, List.length_cons, List.length_drop]
    omega

/-- `duplicate()` on a stack that is not full (40_stack R73). -/
theorem duplicate_eq {s : State} (h : s.stackWf = true) (hf : s.full = false) :
    duplicate s = .done (s.setStk (s.operand 0 :: s.operand 0 :: s.stk.drop 1)) := by
  simp only [duplicate, pop_eq]
  rw [push_of_not_full _ (State.not_full_drop h (by omega))]
  simp only [Effect.andThen, State.setStk_stk, State.setStk_setStk]
  rw [push_of_not_full _ ?_]
  · rfl
  · rw [State.full_eq_false_iff] at hf ⊢
    intro n hn
    have := (State.stackWf_iff s).mp h n hn
    have := hf n hn
    have hsp : s.sp = s.stk.length := rfl
    simp only [State.setStk_sp, List.length_cons, List.length_drop]
    omega

/-- `duplicate()` on a full stack (40_stack R73). -/
theorem duplicate_of_full {s : State} (h : s.stackWf = true) (hf : s.full = true) :
    duplicate s = .raised .stackOverflow := by
  simp only [duplicate, pop_eq]
  rw [push_of_not_full _ (State.not_full_drop h (by omega))]
  simp only [Effect.andThen, State.setStk_stk, State.setStk_setStk]
  apply push_of_full
  rw [State.full_iff] at hf ⊢
  obtain ⟨n, hn, hs⟩ := hf
  refine ⟨n, hn, ?_⟩
  have := (State.stackWf_iff s).mp h n hn
  have hsp : s.sp = s.stk.length := rfl
  simp only [State.setStk_sp, List.length_cons, List.length_drop]
  omega

theorem popToDir_eq (s : State) (f : Word → Dir) :
    popToDir f s = .done ((s.setStk (s.stk.drop 1)).setDir (f (s.operand 0))) := by
  simp only [popToDir, pop_eq]

theorem popToToken_eq (s : State) (f : Word → OutToken) :
    popToToken f s = .done ((s.setStk (s.stk.drop 1)).emit (f (s.operand 0))) := by
  simp only [popToToken, pop_eq]

/-! ### The grid operations -/

theorem gridGet_of_some {s : State} {a : Nat} (h : s.stackWf = true)
    (ha : gridAddr (s.operand 1) (s.operand 0) = some a) :
    gridGet s = .done (s.setStk (zextW (s.grid.read a) :: s.stk.drop 2)) := by
  simp only [gridGet, pop_eq, State.operand_setStk_drop, State.setStk_stk, List.drop_drop, State.setStk_setStk, ha]
  rw [push_of_not_full _ (State.not_full_drop h (by omega))]
  rfl

theorem gridGet_of_none {s : State} (ha : gridAddr (s.operand 1) (s.operand 0) = none) :
    gridGet s = .raised .outOfBounds := by
  simp only [gridGet, pop_eq, State.operand_setStk_drop, ha]

theorem gridPut_of_some {s : State} {a : Nat} (ha : gridAddr (s.operand 1) (s.operand 0) = some a) :
    gridPut s = .done ((s.setStk (s.stk.drop 3)).setGrid (s.grid.write a (lowByte (s.operand 2)))) := by
  simp only [gridPut, pop_eq, State.operand_setStk_drop, State.setStk_stk, List.drop_drop, State.setStk_setStk, ha,
    State.setStk_grid]

theorem gridPut_of_none {s : State} (ha : gridAddr (s.operand 1) (s.operand 0) = none) :
    gridPut s = .raised .outOfBounds := by
  simp only [gridPut, pop_eq, State.operand_setStk_drop, ha]

/-! ### Every operation that writes the grid keeps its canonical form -/

theorem State.reset_grid_wf : State.reset.grid.wf = true := rfl

theorem gridPut_keeps_grid_wf {s t : State} (h : s.grid.wf = true) (he : gridPut s = .done t) :
    t.grid.wf = true := by
  cases ha : gridAddr (s.operand 1) (s.operand 0) with
  | none => rw [gridPut_of_none ha] at he; cases he
  | some a =>
    rw [gridPut_of_some ha, Effect.done.injEq] at he
    subst he
    exact Memory.wf_write h _ (gridAddr_lt ha)

theorem State.placeKey_grid_wf {s : State} (h : s.grid.wf = true) (w : Nat) : (s.placeKey w).grid.wf = true :=
  Memory.wf_write h _ (cellAddr_lt _ _)

theorem State.load_grid_wf {s t : State} {x : Fin 80} {y : Fin 25} {c : Byte} (h : s.grid.wf = true)
    (hl : s.load x y c = some t) : t.grid.wf = true := by
  unfold State.load at hl
  split at hl
  · cases hl
  · rw [Option.some.injEq] at hl
    subst hl
    exact Memory.wf_write h _ (cellAddr_lt _ _)

/-! ### Input -/

theorem inputInt_of_full {s : State} (h : s.full = true) : inputInt s = .raised .stackOverflow := by
  simp [inputInt, h]

theorem inputInt_hold {s : State} (h : s.full = false) (hi : s.intIn = []) : inputInt s = .held .int := by
  simp [inputInt, h, hi]

theorem inputInt_take {s : State} {t : IntToken} {rest : List IntToken} (h : s.full = false)
    (hi : s.intIn = t :: rest) : inputInt s = .done (((s.setIntIn rest).setRequest none).setStk (t.value :: s.stk)) := by
  simp only [inputInt, h, hi, Bool.false_eq_true, if_false]
  exact push_of_not_full _ h

theorem inputChar_of_full {s : State} (h : s.full = true) : inputChar s = .raised .stackOverflow := by
  simp [inputChar, h]

theorem inputChar_hold {s : State} (h : s.full = false) (hi : s.charIn = []) : inputChar s = .held .char := by
  simp [inputChar, h, hi]

theorem inputChar_take {s : State} {t : CharToken} {rest : List CharToken} (h : s.full = false)
    (hi : s.charIn = t :: rest) : inputChar s = .done (((s.setCharIn rest).setRequest none).setStk (t.value :: s.stk)) := by
  simp only [inputChar, h, hi, Bool.false_eq_true, if_false]
  exact push_of_not_full _ h

/-! ### Ending a step -/

@[simp] theorem finish_done (c : Byte) (s t : State) : finish c s (.done t) = .next t.advance := rfl
@[simp] theorem finish_raised (c : Byte) (s : State) (k : FaultKind) :
    finish c s (.raised k) = .next (s.raise k c) := rfl
@[simp] theorem finish_held (c : Byte) (s : State) (k : InKind) :
    finish c s (.held k) = .next (s.setRequest (some k)) := rfl

/-- Every way an instruction can end is a next state. -/
theorem finish_answers_next (c : Byte) (s : State) (e : Effect) : ∃ t, finish c s e = .next t := by
  cases e <;> exact ⟨_, rfl⟩

/-- All that the end of a step can be: the effect and the advance, the fault record alone, or the request alone. -/
theorem finish_cases {c : Byte} {s t : State} {e : Effect} (h : finish c s e = .next t) :
    (∃ u, e = .done u ∧ t = u.advance) ∨ (∃ k, e = .raised k ∧ t = s.raise k c) ∨
    (∃ k, e = .held k ∧ t = s.setRequest (some k)) := by
  cases e with
  | done u => simp only [finish_done, Host.Outcome.next.injEq] at h; exact .inl ⟨u, rfl, h.symm⟩
  | raised k => simp only [finish_raised, Host.Outcome.next.injEq] at h; exact .inr (.inl ⟨k, rfl, h.symm⟩)
  | held k => simp only [finish_held, Host.Outcome.next.injEq] at h; exact .inr (.inr ⟨k, rfl, h.symm⟩)

end Sys2Proof.Machine
end

