-- ==== Sys2Proof/Laws/Exec.lean ====
section
/-! SUPPORT. Every meaning has one shape: an operation's effect, then the end of the step. -/

namespace Sys2Proof.Machine

/-- The effect of an instruction's operation, before its step's advance (30_encoding R60). -/
def operationEffect (i : Instr) (s : State) : Effect :=
  match i with
  | .exit => .done (s.setHalted true)
  | .blank => .done s
  | .swap => swap s
  | .dup => duplicate s
  | .pop => .done (pop s).2
  | .outc => popToToken .char s
  | .outi => popToToken .int s
  | .add => binary addWords s
  | .sub => binary subWords s
  | .mul => binary mulWords s
  | .div => binary divWords s
  | .mod => binary modWords s
  | .not => unary (fun v => truthValue (isZero v)) s
  | .gt => binary (fun lhs rhs => truthValue (isGreater lhs rhs)) s
  | .right => .done (s.setDir .right)
  | .left => .done (s.setDir .left)
  | .up => .done (s.setDir .up)
  | .down => .done (s.setDir .down)
  | .rand => .done ((drawDir s).2.setDir (Dir.ofCode (drawDir s).1))
  | .hif => popToDir (fun v => if isZero v then .right else .left) s
  | .vif => popToDir (fun v => if isZero v then .down else .up) s
  | .get => gridGet s
  | .put => gridPut s
  | .ini => inputInt s
  | .inc => inputChar s
  | .bridge => .done s.advance
  | .quote => .done (s.setStrmode (!s.strmode))
  | .pushd d => push (digitValue d) s
  | .strpush c => push (zextW c) s

/-- An instruction's step is its operation's effect and the end of the step. -/
theorem exec_eq_finish (i : Instr) (s : State) : exec i s = finish (encodeCell i) s (operationEffect i s) := by
  cases i <;> rfl

/-- All that an instruction's step can answer. -/
theorem exec_cases {i : Instr} {s t : State} (h : exec i s = .next t) :
    (∃ u, operationEffect i s = .done u ∧ t = u.advance) ∨
    (∃ k, operationEffect i s = .raised k ∧ t = s.raise k (encodeCell i)) ∨
    (∃ k, operationEffect i s = .held k ∧ t = s.setRequest (some k)) := by
  rw [exec_eq_finish] at h
  exact finish_cases h

/-! ### The effects of the operations that can fail, taken apart -/

/-- All that a push can do. -/
theorem push_cases {v : Word} {s : State} {e : Effect} (h : push v s = e) :
    (s.full = false ∧ e = .done (s.setStk (v :: s.stk))) ∨ (s.full = true ∧ e = .raised .stackOverflow) := by
  subst h
  cases hf : s.full
  · exact .inl ⟨rfl, push_of_not_full v hf⟩
  · exact .inr ⟨rfl, push_of_full v hf⟩

/-- All that a two-operand instruction can do in any state. -/
theorem binary_cases (f : Word → Word → Word) (s : State) :
    binary f s = .done (s.setStk (f (s.operand 1) (s.operand 0) :: s.stk.drop 2)) ∨
    binary f s = .raised .stackOverflow := by
  simp only [binary, pop_eq, State.operand_setStk_drop, State.setStk_stk, List.drop_drop, State.setStk_setStk]
  rcases push_cases (rfl : push (f (s.operand 1) (s.operand 0)) (s.setStk (s.stk.drop 2)) = _) with h | h
  · exact .inl h.2
  · exact .inr h.2

/-- All that a one-operand instruction can do in any state. -/
theorem unary_cases (f : Word → Word) (s : State) :
    unary f s = .done (s.setStk (f (s.operand 0) :: s.stk.drop 1)) ∨ unary f s = .raised .stackOverflow := by
  simp only [unary, pop_eq]
  rcases push_cases (rfl : push (f (s.operand 0)) (s.setStk (s.stk.drop 1)) = _) with h | h
  · exact .inl h.2
  · exact .inr h.2

/-- All that `swap()` can do in any state. -/
theorem swap_cases (s : State) :
    swap s = .done (s.setStk (s.operand 1 :: s.operand 0 :: s.stk.drop 2)) ∨ swap s = .raised .stackOverflow := by
  simp only [swap, pop_eq, State.operand_setStk_drop, State.setStk_stk, List.drop_drop, State.setStk_setStk]
  rcases push_cases (rfl : push (s.operand 0) (s.setStk (s.stk.drop 2)) = _) with h | h
  · rw [h.2]
    rcases push_cases (rfl : push (s.operand 1) (s.setStk (s.operand 0 :: s.stk.drop 2)) = _) with h' | h'
    · exact .inl h'.2
    · exact .inr h'.2
  · rw [h.2]; exact .inr rfl

/-- All that `duplicate()` can do in any state. -/
theorem duplicate_cases (s : State) :
    duplicate s = .done (s.setStk (s.operand 0 :: s.operand 0 :: s.stk.drop 1)) ∨
    duplicate s = .raised .stackOverflow := by
  simp only [duplicate, pop_eq]
  rcases push_cases (rfl : push (s.operand 0) (s.setStk (s.stk.drop 1)) = _) with h | h
  · rw [h.2]
    rcases push_cases (rfl : push (s.operand 0) (s.setStk (s.operand 0 :: s.stk.drop 1)) = _) with h' | h'
    · exact .inl h'.2
    · exact .inr h'.2
  · rw [h.2]; exact .inr rfl

/-- All that `GET`'s operation can do in any state. -/
theorem gridGet_cases (s : State) :
    (∃ a, gridAddr (s.operand 1) (s.operand 0) = some a ∧
      (gridGet s = .done (s.setStk (zextW (s.grid.read a) :: s.stk.drop 2)) ∨ gridGet s = .raised .stackOverflow)) ∨
    (gridAddr (s.operand 1) (s.operand 0) = none ∧ gridGet s = .raised .outOfBounds) := by
  cases ha : gridAddr (s.operand 1) (s.operand 0) with
  | none => exact .inr ⟨rfl, gridGet_of_none ha⟩
  | some a =>
    refine .inl ⟨a, rfl, ?_⟩
    simp only [gridGet, pop_eq, State.operand_setStk_drop, State.setStk_stk, List.drop_drop, State.setStk_setStk, ha]
    rcases push_cases (rfl : push (zextW (s.grid.read a)) (s.setStk (s.stk.drop 2)) = _) with h | h
    · exact .inl h.2
    · exact .inr h.2

/-- All that `PUT`'s operation can do in any state. -/
theorem gridPut_cases (s : State) :
    (∃ a, gridAddr (s.operand 1) (s.operand 0) = some a ∧
      gridPut s = .done ((s.setStk (s.stk.drop 3)).setGrid (s.grid.write a (lowByte (s.operand 2))))) ∨
    (gridAddr (s.operand 1) (s.operand 0) = none ∧ gridPut s = .raised .outOfBounds) := by
  cases ha : gridAddr (s.operand 1) (s.operand 0) with
  | none => exact .inr ⟨rfl, gridPut_of_none ha⟩
  | some a => exact .inl ⟨a, rfl, gridPut_of_some ha⟩

/-- All that `INI`'s operation can do. -/
theorem inputInt_cases (s : State) :
    (s.full = true ∧ inputInt s = .raised .stackOverflow) ∨
    (s.full = false ∧ s.intIn = [] ∧ inputInt s = .held .int) ∨
    (s.full = false ∧ ∃ t rest, s.intIn = t :: rest ∧
      inputInt s = .done (((s.setIntIn rest).setRequest none).setStk (t.value :: s.stk))) := by
  cases hf : s.full with
  | true => exact .inl ⟨rfl, inputInt_of_full hf⟩
  | false =>
    cases hi : s.intIn with
    | nil => exact .inr (.inl ⟨rfl, rfl, inputInt_hold hf hi⟩)
    | cons t rest => exact .inr (.inr ⟨rfl, t, rest, rfl, inputInt_take hf hi⟩)

/-- All that `INC`'s operation can do. -/
theorem inputChar_cases (s : State) :
    (s.full = true ∧ inputChar s = .raised .stackOverflow) ∨
    (s.full = false ∧ s.charIn = [] ∧ inputChar s = .held .char) ∨
    (s.full = false ∧ ∃ t rest, s.charIn = t :: rest ∧
      inputChar s = .done (((s.setCharIn rest).setRequest none).setStk (t.value :: s.stk))) := by
  cases hf : s.full with
  | true => exact .inl ⟨rfl, inputChar_of_full hf⟩
  | false =>
    cases hi : s.charIn with
    | nil => exact .inr (.inl ⟨rfl, rfl, inputChar_hold hf hi⟩)
    | cons t rest => exact .inr (.inr ⟨rfl, t, rest, rfl, inputChar_take hf hi⟩)

/-- All that a draw can be: the host's, or a free value. -/
theorem drawDir_cases (s : State) :
    (s.rnd = [] ∧ drawDir s = (Config.freeDraw s.draws, { s with draws := s.draws + 1 })) ∨
    (∃ r rest, s.rnd = r :: rest ∧ drawDir s = (r, { s with rnd := rest })) := by
  unfold drawDir
  cases hr : s.rnd with
  | nil => exact .inl ⟨rfl, rfl⟩
  | cons r rest => exact .inr ⟨r, rest, rfl, rfl⟩

/-! ### Waiting, and all that a step can do -/

theorem push_ne_held (v : Word) (s : State) (k : InKind) : push v s ≠ .held k := by
  rcases push_cases (rfl : push v s = _) with ⟨_, e⟩ | ⟨_, e⟩ <;> rw [e] <;> nofun

theorem binary_ne_held (f : Word → Word → Word) (s : State) (k : InKind) : binary f s ≠ .held k := by
  rcases binary_cases f s with e | e <;> rw [e] <;> nofun

/-- Only the two input instructions wait, each for its own kind of token, and only with room on the stack. -/
theorem operationEffect_held {i : Instr} {s : State} {k : InKind} (h : operationEffect i s = .held k) :
    i = k.instr ∧ s.full = false ∧ (i = .ini → s.intIn = []) ∧ (i = .inc → s.charIn = []) := by
  cases i with
  | ini =>
    rcases inputInt_cases s with ⟨_, e⟩ | ⟨hf, hi, e⟩ | ⟨_, _, _, _, e⟩ <;>
      simp only [operationEffect, e, Effect.held.injEq, reduceCtorEq] at h
    subst h; exact ⟨rfl, hf, fun _ => hi, nofun⟩
  | inc =>
    rcases inputChar_cases s with ⟨_, e⟩ | ⟨hf, hi, e⟩ | ⟨_, _, _, _, e⟩ <;>
      simp only [operationEffect, e, Effect.held.injEq, reduceCtorEq] at h
    subst h; exact ⟨rfl, hf, nofun, fun _ => hi⟩
  | add | sub | mul | div | mod => exact absurd h (binary_ne_held _ s k)
  | gt => rw [operationEffect] at h; exact absurd h (binary_ne_held _ s k)
  | pushd d => exact absurd h (push_ne_held _ s k)
  | strpush c => exact absurd h (push_ne_held _ s k)
  | not => exact absurd h (by rcases unary_cases _ s with e | e <;> rw [operationEffect, e] <;> nofun)
  | swap => exact absurd h (by rcases swap_cases s with e | e <;> rw [operationEffect, e] <;> nofun)
  | dup => exact absurd h (by rcases duplicate_cases s with e | e <;> rw [operationEffect, e] <;> nofun)
  | get => exact absurd h (by rcases gridGet_cases s with ⟨_, _, e | e⟩ | ⟨_, e⟩ <;> rw [operationEffect, e] <;> nofun)
  | put => exact absurd h (by rcases gridPut_cases s with ⟨_, _, e⟩ | ⟨_, e⟩ <;> rw [operationEffect, e] <;> nofun)
  | hif | vif => simp only [operationEffect, popToDir_eq, reduceCtorEq] at h
  | outc | outi => simp only [operationEffect, popToToken_eq, reduceCtorEq] at h
  | exit | blank | pop | right | left | up | down | rand | bridge | quote =>
    simp only [operationEffect, reduceCtorEq] at h

theorem State.enabled_iff {s : State} : s.enabled = true ↔ s.halted = false ∧ s.fkind = none ∧ s.run = true := by
  simp only [State.enabled, Bool.and_eq_true, Bool.not_eq_true', Option.isNone_iff_eq_none, and_assoc]

/-- The step of a core that is not enabled. -/
theorem step_of_not_enabled {s : State} (h : s.enabled = false) : step s = .next s := by
  simp only [step, h, Bool.false_eq_true, if_false]

/-- The step that goes on with the input step at hand. -/
theorem step_of_request {s : State} {k : InKind} (h : s.enabled = true) (hr : s.request = some k) :
    step s = exec k.instr (s.setBegun true) := by
  simp only [step, h, if_true, hr]

/-- The step that fetches an instruction. -/
theorem step_of_operation {s : State} {i : Instr} (h : s.enabled = true) (hr : s.request = none)
    (hd : decode s.strmode s.fetch = .operation i) : step s = exec i (s.setBegun true) := by
  simp only [step, h, if_true, hr, hd]

/-- The step that fetches a code without an operation. -/
theorem step_of_unknown {s : State} {c : Byte} (h : s.enabled = true) (hr : s.request = none)
    (hd : decode s.strmode s.fetch = .unknownInstruction c) :
    step s = .next ((s.setBegun true).raise .unknownInstruction c) := by
  simp only [step, h, if_true, hr, hd, takeFault]

/-- All that a step can do: nothing when it is not enabled, the input step at hand, the fetched instruction, or
UnknownInstruction. -/
theorem step_cases {s t : State} (h : step s = .next t) :
    (s.enabled = false ∧ t = s) ∨
    (s.enabled = true ∧ ∃ k, s.request = some k ∧ exec k.instr (s.setBegun true) = .next t) ∨
    (s.enabled = true ∧ s.request = none ∧ ∃ i, decode s.strmode s.fetch = .operation i ∧
      exec i (s.setBegun true) = .next t) ∨
    (s.enabled = true ∧ s.request = none ∧ ∃ c, decode s.strmode s.fetch = .unknownInstruction c ∧
      t = (s.setBegun true).raise .unknownInstruction c) := by
  cases he : s.enabled with
  | false =>
    rw [step_of_not_enabled he, Host.Outcome.next.injEq] at h
    exact .inl ⟨rfl, h.symm⟩
  | true =>
    cases hr : s.request with
    | some k => rw [step_of_request he hr] at h; exact .inr (.inl ⟨rfl, k, rfl, h⟩)
    | none =>
      cases hd : decode s.strmode s.fetch with
      | operation i => rw [step_of_operation he hr hd] at h; exact .inr (.inr (.inl ⟨rfl, rfl, i, rfl, h⟩))
      | unknownInstruction c =>
        rw [step_of_unknown he hr hd, Host.Outcome.next.injEq] at h
        exact .inr (.inr (.inr ⟨rfl, rfl, c, rfl, h.symm⟩))

/-! ### The hold -/

/-- A core that holds has made a request of one kind, and no answer of that kind stands. -/
theorem State.holding_cases {s : State} (h : s.holding = true) :
    (s.request = some .int ∧ s.intIn = []) ∨ (s.request = some .char ∧ s.charIn = []) := by
  unfold State.holding at h
  cases hr : s.request with
  | none => rw [hr] at h; cases h
  | some k =>
    rw [hr] at h
    cases k with
    | char => exact .inr ⟨rfl, by simpa using h⟩
    | int => exact .inl ⟨rfl, by simpa using h⟩

/-- What the invariant says of a core with an input step at hand. -/
theorem State.requestWf_of_some {s : State} {k : InKind} (h : s.requestWf = true) (hr : s.request = some k) :
    s.begun = true ∧ s.halted = false ∧ s.fkind = none ∧ s.strmode = false ∧ s.full = false := by
  simp only [State.requestWf, State.inRun, hr, Option.isNone_some, Bool.false_or, Bool.and_eq_true, Bool.not_eq_true',
    Option.isNone_iff_eq_none] at h
  exact ⟨h.1.1.1.1, h.1.1.1.2, h.1.1.2, h.1.2, h.2⟩

/-- A holding core shows its request. -/
theorem State.inputRequest_of_holding {s : State} (h : s.holding = true) : s.inputRequest = s.request := by
  simp only [State.inputRequest, h, if_true]

/-! ### Loading -/

/-- A load has a result exactly with `run` down and no run under way, and writes its one cell. -/
theorem State.load_eq_some {s t : State} {x : Fin 80} {y : Fin 25} {c : Byte} : s.load x y c = some t ↔
    s.run = false ∧ s.inRun = false ∧ t = s.setGrid (s.grid.write (cellAddr x y) c) := by
  unfold State.load
  cases s.run <;> cases s.inRun <;> simp [eq_comm]

/-! ### Runs of several steps -/

@[simp] theorem runSteps_zero (s : State) : runSteps 0 s = .next s := rfl

/-- One step at the front of a run. -/
theorem runSteps_succ_of_next {s t : State} (h : step s = .next t) (n : Nat) :
    runSteps (n + 1) s = runSteps n t := by
  simp only [runSteps, h]

/-- A run goes on from where its first part ended. -/
theorem runSteps_add {m : Nat} {s t : State} (h : runSteps m s = .next t) (n : Nat) :
    runSteps (m + n) s = runSteps n t := by
  induction m generalizing s with
  | zero => simp only [runSteps_zero, Host.Outcome.next.injEq] at h; simp [h]
  | succ m ih =>
    rw [Nat.succ_add]
    cases hs : step s with
    | next u => rw [runSteps_succ_of_next hs] at h ⊢; exact ih h
    | fault r => simp only [runSteps, hs] at h; cases h
    | refused r => simp only [runSteps, hs] at h; cases h

end Sys2Proof.Machine
end

