-- ==== Sys2Proof/Laws/PerInstr.lean ====
section
/-! SUPPORT. One lemma per instruction: its encoding decodes to it (30_encoding R52 to R55). -/

namespace Sys2Proof.Laws.DecodeEncode

/-- Under each value of `STRMODE` that its encoding admits, the cell of a well-formed instruction decodes to it. -/
def Statement (i : Instr) : Prop :=
  i.wellFormed = true → ∀ m : Bool, admitsMode i m = true → decode m (encodeCell i) = .operation i

theorem exit : Statement .exit := by unfold Statement; decide
theorem blank : Statement .blank := by unfold Statement; decide
theorem swap : Statement .swap := by unfold Statement; decide
theorem dup : Statement .dup := by unfold Statement; decide
theorem pop : Statement .pop := by unfold Statement; decide
theorem outc : Statement .outc := by unfold Statement; decide
theorem outi : Statement .outi := by unfold Statement; decide
theorem add : Statement .add := by unfold Statement; decide
theorem sub : Statement .sub := by unfold Statement; decide
theorem mul : Statement .mul := by unfold Statement; decide
theorem div : Statement .div := by unfold Statement; decide
theorem mod : Statement .mod := by unfold Statement; decide
theorem not : Statement .not := by unfold Statement; decide
theorem gt : Statement .gt := by unfold Statement; decide
theorem right : Statement .right := by unfold Statement; decide
theorem left : Statement .left := by unfold Statement; decide
theorem up : Statement .up := by unfold Statement; decide
theorem down : Statement .down := by unfold Statement; decide
theorem rand : Statement .rand := by unfold Statement; decide
theorem hif : Statement .hif := by unfold Statement; decide
theorem vif : Statement .vif := by unfold Statement; decide
theorem get : Statement .get := by unfold Statement; decide
theorem put : Statement .put := by unfold Statement; decide
theorem ini : Statement .ini := by unfold Statement; decide
theorem inc : Statement .inc := by unfold Statement; decide
theorem bridge : Statement .bridge := by unfold Statement; decide
theorem quote : Statement .quote := by unfold Statement; decide

theorem pushd (d : BitVec 4) : Statement (.pushd d) := by
  revert d; unfold Statement; decide

theorem strpush (c : Byte) : Statement (.strpush c) := by
  intro hc m hm
  simp only [Instr.wellFormed, decide_eq_true_eq] at hc
  simp only [admitsMode] at hm
  rw [hm, encodeCell, decode, if_pos ⟨rfl, hc⟩]

end Sys2Proof.Laws.DecodeEncode
end

