-- ==== Sys2Proof/Tests/Slice0.lean ====
section
/-! SUPPORT. The model's own tests. Expected values come from spec/95_test_vectors.md (the vector's number stands in the
comment) or are worked out by hand from the rule named; then a witness for the hypotheses of each statement. -/

namespace Sys2Proof.Tests

open Sys2Proof Sys2Proof.Machine

/-- The reset state with a stack, written bottom first as the spec writes it. -/
def withStack (l : List Int) : State := { State.reset with stk := (l.map (BitVec.ofInt 32)).reverse }

/-- The reset state at a position, with a direction. -/
def place (x : Fin 80) (y : Fin 25) (d : Dir) : State := { State.reset with pcx := x, pcy := y, dir := d }

/-- A core with `DEPTH = 2` and a stack. -/
def shallow (l : List Int) : State := { withStack l with depth := .cells 2 }

/-- The stack of a next state, bottom first. -/
def stackOf : Host.Outcome State Fault Refusal → Option (List Int)
  | .next s => some (s.stk.reverse.map BitVec.toInt)
  | .fault _ => none
  | .refused _ => none

/-- A view of a next state. -/
def look {α : Type} (f : State → α) : Host.Outcome State Fault Refusal → Option α
  | .next s => some (f s)
  | .fault _ => none
  | .refused _ => none

/-- Position and direction. -/
def where_ (s : State) : Nat × Nat × Dir := (s.pcx.val, s.pcy.val, s.dir)

/-- The fault record and the position. -/
def record (s : State) : Option FaultKind × Byte × Nat × Nat := (s.fkind, s.fchar, s.pcx.val, s.pcy.val)

/-! ### Well-formedness refuses each ill-formed form (30_encoding R53, R54) -/

theorem test_digit_ten_is_ill_formed : Instr.wellFormed (.pushd 10) = false := by decide
theorem test_quote_is_no_string_code : Instr.wellFormed (.strpush 0x22) = false := by decide

/-! ### Decoding: the code of each constructor, written out from 30_encoding R55 (vectors V96 to V114) -/

theorem test_decode_exit : decode false 0b01000000 = .operation .exit := by decide
theorem test_decode_blank : decode false 0b00100000 = .operation .blank := by decide
theorem test_decode_swap : decode false 0b01011100 = .operation .swap := by decide
theorem test_decode_dup : decode false 0b00111010 = .operation .dup := by decide
theorem test_decode_pop : decode false 0b00100100 = .operation .pop := by decide
theorem test_decode_outc : decode false 0b00101100 = .operation .outc := by decide
theorem test_decode_outi : decode false 0b00101110 = .operation .outi := by decide
theorem test_decode_add : decode false 0b00101011 = .operation .add := by decide
theorem test_decode_sub : decode false 0b00101101 = .operation .sub := by decide
theorem test_decode_mul : decode false 0b00101010 = .operation .mul := by decide
theorem test_decode_div : decode false 0b00101111 = .operation .div := by decide
theorem test_decode_mod : decode false 0b00100101 = .operation .mod := by decide
theorem test_decode_not : decode false 0b00100001 = .operation .not := by decide
theorem test_decode_gt : decode false 0b01100000 = .operation .gt := by decide
theorem test_decode_right : decode false 0b00111110 = .operation .right := by decide
theorem test_decode_left : decode false 0b00111100 = .operation .left := by decide
theorem test_decode_up : decode false 0b01011110 = .operation .up := by decide
theorem test_decode_down : decode false 0b01110110 = .operation .down := by decide
theorem test_decode_rand : decode false 0b00111111 = .operation .rand := by decide
theorem test_decode_hif : decode false 0b01011111 = .operation .hif := by decide
theorem test_decode_vif : decode false 0b01111100 = .operation .vif := by decide
theorem test_decode_get : decode false 0b01100111 = .operation .get := by decide
theorem test_decode_put : decode false 0b01110000 = .operation .put := by decide
theorem test_decode_ini : decode false 0b00100110 = .operation .ini := by decide
theorem test_decode_inc : decode false 0b01111110 = .operation .inc := by decide
theorem test_decode_bridge : decode false 0b00100011 = .operation .bridge := by decide
theorem test_decode_quote_in_both_modes :
    decode false 0b00100010 = .operation .quote ∧ decode true 0b00100010 = .operation .quote := by decide
theorem test_decode_pushd : decode false 0b00110101 = .operation (.pushd 5) := by decide
theorem test_decode_strpush : decode true 0b00110101 = .operation (.strpush 0x35) := by decide
/-- V101, V102, V103, V104, V106, V110, V113, V114. -/
theorem test_decode_unknown :
    [0x00, 0x09, 0x41, 0x56, 0x47, 0xFF, 0x27, 0x7F].map (decode false) =
      [0x00, 0x09, 0x41, 0x56, 0x47, 0xFF, 0x27, 0x7F].map .unknownInstruction := by decide
/-- The check of the opcode table at the end of 95_test_vectors 2.6. -/
theorem test_table_keys :
    decodeTableWord 16 0x135 = some (.strpush 0x35) ∧ decodeTableWord 16 0x122 = some .quote ∧
      decodeTableWord 16 0x120 = some (.strpush 0x20) ∧ decodeTableWord 16 0x041 = none := by decide

/-! ### The stack family -/

/-- V2. -/
theorem test_pushd : stackOf (exec (.pushd 9) (withStack [4])) = some [4, 9] := by decide
/-- V5: zero-extended. -/
theorem test_strpush_high_code : stackOf (exec (.strpush 0xFF) (withStack [])) = some [255] := by decide
/-- V6: `@` in string mode, through the step. -/
theorem test_string_mode_exit_is_data :
    look (fun s => (s.stk, s.halted)) (step (State.reset.withFetchWord 16 0x140)) = some ([64], false) := by decide
/-- V8, V9, V10. -/
theorem test_swap : [[1, 2], [5], []].map (fun l => stackOf (exec .swap (withStack l))) =
    [some [2, 1], some [5, 0], some [0, 0]] := by decide
/-- V17: no overflow. -/
theorem test_swap_full : stackOf (exec .swap (shallow [1, 2])) = some [2, 1] := by decide
/-- V11, V12. -/
theorem test_dup : [[3], []].map (fun l => stackOf (exec .dup (withStack l))) = [some [3, 3], some [0, 0]] := by decide
/-- V16: the step's pop and first push are undone. -/
theorem test_dup_overflow :
    look (fun s => (s.stk, record s)) (exec .dup (shallow [1, 2])) =
      some ([2, 1], some .stackOverflow, 0x3A, 0, 0) := by decide
/-- V13, V14. -/
theorem test_pop : [[1, 2], []].map (fun l => stackOf (exec .pop (withStack l))) = [some [1], some []] := by decide
/-- V15. -/
theorem test_pushd_overflow :
    look (fun s => (s.stk, record s)) (exec (.pushd 3) (shallow [1, 2])) =
      some ([2, 1], some .stackOverflow, 0x33, 0, 0) := by decide

/-! ### The arithmetic family -/

/-- V20, V25. -/
theorem test_add : [[2, 3], [2147483647, 1], []].map (fun l => stackOf (exec .add (withStack l))) =
    [some [5], some [-2147483648], some [0]] := by decide
/-- V21, V22, V23, V26. -/
theorem test_sub : [[7, 2], [2, 7], [1], [-2147483648, 1]].map (fun l => stackOf (exec .sub (withStack l))) =
    [some [5], some [-5], some [-1], some [2147483647]] := by decide
/-- V27, V28. -/
theorem test_mul : [[65536, 65536], [46341, 46341]].map (fun l => stackOf (exec .mul (withStack l))) =
    [some [0], some [-2147479015]] := by decide
/-- V29, V31, V32, V34, V35. -/
theorem test_div :
    [[-7, 2], [7, -2], [-7, -2], [5, 0], [-2147483648, -1]].map (fun l => stackOf (exec .div (withStack l))) =
      [some [-3], some [-3], some [3], some [0], some [-2147483648]] := by decide
/-- V30, V31, V32, V33, V34, V35. -/
theorem test_mod :
    [[-7, 2], [7, -2], [-7, -2], [-2, 3], [5, 0], [-2147483648, -1]].map
        (fun l => stackOf (exec .mod (withStack l))) =
      [some [-1], some [1], some [-1], some [-2], some [0], some [0]] := by decide
/-- V35a, V35b, V35c. -/
theorem test_not : [[0], [-3], []].map (fun l => stackOf (exec .not (withStack l))) =
    [some [1], some [0], some [1]] := by decide
/-- V35d to V35i. -/
theorem test_gt : [[3, 2], [2, 3], [2, 2], [-1, 0], [-4], []].map (fun l => stackOf (exec .gt (withStack l))) =
    [some [1], some [0], some [0], some [0], some [1], some [0]] := by decide

/-! ### The program-counter family -/

/-- V40 to V43. -/
theorem test_blank_wraps :
    [place 79 5 .right, place 0 5 .left, place 3 0 .up, place 3 24 .down].map (fun s => look where_ (exec .blank s)) =
      [some (0, 5, .right), some (79, 5, .left), some (3, 24, .up), some (3, 0, .down)] := by decide
/-- V44. -/
theorem test_left : look where_ (exec .left (place 0 0 .right)) = some (79, 0, .left) := by decide
/-- V45. -/
theorem test_right : look where_ (exec .right (place 79 24 .left)) = some (0, 24, .right) := by decide
/-- V46. -/
theorem test_up : look where_ (exec .up (place 0 0 .right)) = some (0, 24, .up) := by decide
/-- V47. -/
theorem test_down : look where_ (exec .down (place 79 24 .right)) = some (79, 0, .down) := by decide
/-- V36 to V39. -/
theorem test_rand_every_draw :
    ([0, 1, 2, 3] : List (BitVec 2)).map (fun r => look where_ (exec .rand { State.reset with rnd := [r] })) =
      [some (1, 0, .right), some (79, 0, .left), some (0, 24, .up), some (0, 1, .down)] := by decide
/-- V48 to V51. -/
theorem test_hif :
    [[0], [2], [-2], []].map (fun l => look where_ (exec .hif { withStack l with pcx := 7, pcy := 1, dir := .down })) =
      [some (8, 1, .right), some (6, 1, .left), some (6, 1, .left), some (8, 1, .right)] := by decide
/-- V52, V53. -/
theorem test_vif :
    look where_ (exec .vif { withStack [0] with pcx := 4, pcy := 24 }) = some (4, 0, .down) ∧
      look where_ (exec .vif { withStack [-1] with pcx := 4, pcy := 0 }) = some (4, 24, .up) := by decide
/-- V54 to V58. -/
theorem test_bridge :
    [place 3 0 .right, place 79 0 .right, place 78 0 .right, place 0 3 .left, place 2 0 .up].map
        (fun s => look where_ (exec .bridge s)) =
      [some (5, 0, .right), some (1, 0, .right), some (0, 0, .right), some (78, 3, .left), some (2, 23, .up)] := by
  decide
/-- V60. -/
theorem test_bridge_in_string_mode :
    look (fun s => (s.stk, where_ s)) (step ((place 3 0 .right).withFetchWord 16 0x123)) =
      some ([35], 4, 0, .right) := by decide

/-! ### The grid family -/

/-- V61, V62. -/
theorem test_get :
    stackOf (exec .get { withStack [2, 2] with grid := [(162, 5)] }) = some [5] ∧
      stackOf (exec .get { withStack [] with grid := [(0, 0x67)] }) = some [103] := by decide
/-- V63 to V66. -/
theorem test_get_bounds :
    [[80, 0], [0, 25], [-1, 0]].map (fun l => look (fun s => (s.stk.length, record s)) (exec .get (withStack l))) =
        [some (2, some .outOfBounds, 0x67, 0, 0), some (2, some .outOfBounds, 0x67, 0, 0),
          some (2, some .outOfBounds, 0x67, 0, 0)] ∧
      stackOf (exec .get { withStack [79, 24] with grid := [(1999, 0x41)] }) = some [65] := by decide
/-- V69 to V74: the value's low 8 bits, and the phantom zeros. -/
theorem test_put :
    [[5, 2, 2], [-1, 3, 4], [256, 3, 4], [321, 3, 4], [], [9]].map
        (fun l => look (fun s => (s.stk, s.grid)) (exec .put (withStack l))) =
      [some ([], [(162, 5)]), some ([], [(323, 0xFF)]), some ([], [(323, 0)]), some ([], [(323, 0x41)]),
        some ([], [(0, 0)]), some ([], [(720, 0)])] := by decide
/-- V67, V68. -/
theorem test_put_bounds :
    [[5, 2, 25], [5, 0, -1]].map (fun l => look (fun s => (s.grid.length, record s)) (exec .put (withStack l))) =
      [some (0, some .outOfBounds, 0x70, 0, 0), some (0, some .outOfBounds, 0x70, 0, 0)] := by decide
/-- The canonical form: storing 32 over a listed cell removes the entry (log 1). -/
theorem test_put_blank_removes_entry :
    look (fun s => s.grid) (exec .put { withStack [32, 2, 2] with grid := [(161, 1), (162, 5), (163, 7)] }) =
      some [(161, 1), (163, 7)] := by decide

/-! ### The system and input/output family -/

/-- V76, V77. -/
theorem test_exit :
    look (fun s => (s.halted, where_ s)) (exec .exit (place 4 0 .right)) = some (true, 5, 0, .right) ∧
      look (fun s => (s.halted, where_ s)) (exec .exit (place 4 0 .left)) = some (true, 3, 0, .left) := by decide
/-- V79, V80. -/
theorem test_quote :
    look (fun s => (s.strmode, s.stk)) (exec .quote (withStack [65])) = some (true, [65]) ∧
      look (fun s => (s.strmode, s.stk)) (exec .quote { withStack [65] with strmode := true }) =
        some (false, [65]) := by decide
/-- V81, V82, V84. -/
theorem test_outc :
    [[65], [], [300]].map (fun l => look (fun s => (s.stk, s.out)) (exec .outc (withStack l))) =
      [some ([], [.char 65]), some ([], [.char 0]), some ([], [.char 300])] := by decide
/-- V85, V87. -/
theorem test_outi :
    [[42], []].map (fun l => look (fun s => (s.stk, s.out)) (exec .outi (withStack l))) =
      [some ([], [.int 42]), some ([], [.int 0])] := by decide
/-- V85, V86, V88: `42 `, `-5 `, `-2147483648 `. -/
theorem test_render_int :
    (OutToken.int 42).render = some [0x34, 0x32, 0x20] ∧
      (OutToken.int (-5)).render = some [0x2D, 0x35, 0x20] ∧
      (OutToken.int (BitVec.ofInt 32 (-2147483648))).render =
        some [0x2D, 0x32, 0x31, 0x34, 0x37, 0x34, 0x38, 0x33, 0x36, 0x34, 0x38, 0x20] := by decide
/-- V81, V84. -/
theorem test_render_char :
    (OutToken.char 65).render = some [0x41] ∧ (OutToken.char 300).render = none := by decide
/-- V89 to V91, V95. -/
theorem test_ini :
    [[.int 42], [.int (-7)], [.absent], []].map (fun q => stackOf (exec .ini { State.reset with intIn := q })) =
      [some [42], some [-7], some [0], some []] := by decide
/-- V19: overflow before the token is taken. -/
theorem test_ini_overflow :
    look (fun s => (s.intIn, record s)) (exec .ini { shallow [1, 2] with intIn := [.int 5] }) =
      some ([.int 5], some .stackOverflow, 0x26, 0, 0) := by decide
/-- V92 to V94. -/
theorem test_inc :
    [[.char 65], [.char 255], [.absent], []].map (fun q => stackOf (exec .inc { State.reset with charIn := q })) =
      [some [65], some [255], some [-1], some []] := by decide
/-- A core that holds for a token of a kind, with the level of `run`, on a cell that need not be the input step's. -/
def waiting (k : InKind) (run : Bool) : State := { State.reset with request := some k, run := run, begun := true }

/-- V95 and the request lines: the first step makes the request, and the answer completes the step. -/
theorem test_hold :
    look (fun s => (s.stk, s.pcx, s.inputRequest, s.condition)) (step (State.reset.withFetchWord 16 0x7E)) =
        some ([], 0, some .char, .holding) ∧
      ((waiting .char true).hostMove (.answerChar (.char 65))).map (fun s => stackOf (step s)) =
        some (some [65]) := by decide
/-- 70_reset_and_hazards R167: dropping `run` leaves the step holding, and its request can be answered. -/
theorem test_hold_with_run_low :
    ((waiting .int true).setRun false).condition = .holding ∧
      ((waiting .int false).hostMove (.answerInt (.int 7))).map (fun s => stackOf (step (s.setRun true))) =
        some (some [7]) := by decide

/-! ### Faults, the end of a run, the host -/

/-- Program P9, its second step: the record of an unknown code. -/
theorem test_unknown :
    look (fun s => (s.halted, record s)) (step ((place 1 0 .right).withFetchWord 16 0x41)) =
      some (false, some .unknownInstruction, 0x41, 1, 0) := by decide
/-- V115, V116. -/
theorem test_ended_core_holds :
    step { State.reset with halted := true } = .next { State.reset with halted := true } ∧
      step { State.reset with fkind := some .outOfBounds } = .next { State.reset with fkind := some .outOfBounds } :=
  ⟨rfl, rfl⟩
/-- V117. -/
theorem test_reset_keeps_grid :
    ({ withStack [1, 2] with pcx := 5, dir := .up, halted := true, fchar := 7, grid := [(3, 9)] } : State).rst =
      { State.reset with grid := [(3, 9)] } := by decide
/-- 70_reset_and_hazards R160: a step that holds for input is abandoned, answered or not. -/
theorem test_reset_abandons_the_hold :
    ({ waiting .int true with intIn := [.int 7] } : State).rst = State.reset := by decide
/-- 70_reset_and_hazards R165, 20_memory R45: no load while `run = 1`. -/
theorem test_load_needs_run_low :
    State.reset.load 2 2 5 = none ∧
      (State.reset.setRun false).load 2 2 5 = some { State.reset with run := false, grid := [(162, 5)] } := by decide
/-- 10_state R28: no load on a core paused in the middle of a run, and one again after its end or a `RESET`. -/
theorem test_no_load_during_a_run :
    look (fun s => (s.inRun, (s.setRun false).load 2 2 5, ((s.setRun false).rst.load 2 2 5).isSome,
        (({ s with halted := true } : State).setRun false).load 2 2 5 |>.isSome)) (step State.reset) =
      some (true, none, true, true) := by decide
/-- 70_reset_and_hazards R166: padding on the right and below. -/
theorem test_text_cells :
    textCell [[0x31, 0x40]] 1 0 = 0x40 ∧ textCell [[0x31, 0x40]] 2 0 = 0x20 ∧ textCell [[0x31]] 0 1 = 0x20 := by decide

/-! ### Witnesses: states and operands that meet each statement's hypotheses -/

/-- A running core about to execute the code of a key. -/
def about (w : Nat) : State := State.reset.withFetchWord 16 w

/-- A full stack of two cells. -/
def fullStack : State := shallow [1, 2]

theorem witness_InvHoldsAtLaunch : Memory.wf [(0, 0x40), (1999, 0x41)] = true ∧ (Depth.cells 2).wf = true := by decide

theorem witness_StepKeepsInv : ∃ s t : State, s.Inv ∧ step s = .next t ∧ t ≠ s :=
  ⟨about 0x31, _, by decide, rfl, by decide⟩

/-- The invariant also has states in which an input step is at hand. -/
theorem witness_StepKeepsInv_waiting : (waiting .int true).Inv ∧ (waiting .char false).Inv := by decide

/-- The invariant also has states that hold a fault record of each kind. -/
theorem witness_StepKeepsInv_faulted :
    ({ about 0x41 with fkind := some .unknownInstruction, fchar := 0x41 } : State).Inv ∧
      ({ about 0x67 with stk := [25, 0], fkind := some .outOfBounds, fchar := 0x67 } : State).Inv ∧
      ({ about 0x31 with stk := [2, 1], depth := .cells 2, fkind := some .stackOverflow, fchar := 0x31 } : State).Inv := by
  decide

theorem witness_StepRunsTheFetchedInstruction :
    ((about 0x3A).halted = false ∧ (about 0x3A).fkind = none ∧ (about 0x3A).run = true ∧ (about 0x3A).request = none ∧
      decode (about 0x3A).strmode ((about 0x3A).grid.read ((about 0x3A).pcy.val * 80 + (about 0x3A).pcx.val)) =
        .operation .dup) ∧
      (waiting .int true).halted = false ∧ (waiting .int true).fkind = none ∧ (waiting .int true).run = true ∧
      (waiting .int true).request = some .int ∧ (waiting .char true).request = some .char := by decide

theorem witness_StateHoldsWhenNotEnabled :
    ({ State.reset with halted := true } : State).halted = true ∧
      ({ State.reset with fkind := some .outOfBounds } : State).fkind ≠ none ∧
      (State.reset.setRun false).run = false := by decide

theorem witness_UnknownCodeRaisesUnknownInstruction :
    (about 0x41).halted = false ∧ (about 0x41).fkind = none ∧ (about 0x41).run = true ∧
      (about 0x41).request = none ∧ decode (about 0x41).strmode (about 0x41).fetch = .unknownInstruction 0x41 := by decide

theorem witness_ResetRestoresAllButGrid : (about 0x41).grid.wf = true ∧ fullStack.depth.wf = true := by decide

theorem witness_DecodeInvertsEncode :
    (Instr.wellFormed (.pushd 9) = true ∧ admitsMode (.pushd 9) false = true) ∧
      (Instr.wellFormed (.strpush 0xFF) = true ∧ admitsMode (.strpush 0xFF) true = true) ∧
      (Instr.wellFormed .quote = true ∧ admitsMode .quote false = true ∧ admitsMode .quote true = true) := by decide

theorem witness_EncodeInvertsDecode :
    decodeKey 0x039 = .operation (.pushd 9) ∧ decodeKey 0x1FF = .operation (.strpush 0xFF) ∧
      decodeKey 0x122 = .operation .quote := by decide

theorem witness_OpcodeTableRowsAgreeWithDecode :
    decodeKey 0x130 = .operation (.strpush 0x30) ∧ decodeKey 0x0FF = .unknownInstruction 0xFF := by decide

theorem witness_IllegalCodesAreTheListed :
    (about 0x7F).halted = false ∧ (about 0x7F).fkind = none ∧ (about 0x7F).run = true ∧
      (about 0x7F).request = none ∧ (about 0x7F).strmode = false ∧
      decode false (about 0x7F).fetch = .unknownInstruction (about 0x7F).fetch := by decide

theorem witness_PushdPushesItsDigit :
    (9 : BitVec 4).toNat ≤ 9 ∧ (shallow [1]).full = false ∧ fullStack.full = true := by decide

theorem witness_StrpushPushesTheCode :
    (0xFF : Byte) ≠ 0x22 ∧ (shallow [1]).full = false ∧ fullStack.full = true := by decide

theorem witness_StringModeTreatsEveryCodeAsData :
    (about 0x140).halted = false ∧ (about 0x140).fkind = none ∧ (about 0x140).run = true ∧ (about 0x140).request = none ∧
      (about 0x140).strmode = true ∧ (about 0x140).fetch ≠ 0x22 ∧ (about 0x140).full = false := by decide

/-- A legal stack: full, empty, and with no bound. -/
theorem witness_SwapExchangesTheTopTwo :
    fullStack.stackWf = true ∧ 2 ≤ fullStack.sp ∧ (shallow []).stackWf = true ∧ State.reset.stackWf = true := by decide

theorem witness_DupDuplicatesTheTop :
    (fullStack.stackWf = true ∧ fullStack.full = true) ∧ (shallow [1]).stackWf = true ∧ (shallow [1]).full = false := by
  decide

theorem witness_PopRemovesTheTopOrYieldsPhantomZero :
    (withStack []).stk = [] ∧ (withStack [7]).stk = 7 :: [] := by decide

theorem witness_AddPushesTheWrappedSum :
    fullStack.stackWf = true ∧ (shallow []).stackWf = true ∧ (shallow []).stk = [] ∧
      (shallow [-2147483648]).stackWf = true ∧ (shallow [-2147483648]).stk = [0x80000000] := by decide

theorem witness_SubPushesTheWrappedDifference :
    fullStack.stackWf = true ∧ (shallow []).stackWf = true ∧ (shallow []).stk = [] ∧
      (shallow [-2147483648]).stackWf = true ∧ (shallow [-2147483648]).stk = [0x80000000] := by decide

theorem witness_MulPushesTheWrappedProduct :
    fullStack.stackWf = true ∧ (shallow [5]).stackWf = true ∧ (shallow [5]).sp ≤ 1 := by decide

theorem witness_DivPushesTheTruncatedQuotient :
    ((shallow [-7, 2]).stackWf = true ∧ (shallow [-7, 2]).operand 0 ≠ 0) ∧
      (shallow [5, 0]).stackWf = true ∧ (shallow [5, 0]).operand 0 = 0 := by decide

theorem witness_ModPushesTheTruncatedRemainder :
    ((shallow [-2147483648, -1]).stackWf = true ∧ (shallow [-2147483648, -1]).operand 0 ≠ 0) ∧
      (shallow []).stackWf = true ∧ (shallow []).operand 0 = 0 := by decide

theorem witness_QuotientAndRemainderLaws :
    ((shallow [-7, 2]).stackWf = true ∧ (shallow [-7, 2]).operand 0 ≠ 0 ∧
        ¬ (((shallow [-7, 2]).operand 1).toInt = -2147483648 ∧ ((shallow [-7, 2]).operand 0).toInt = -1)) ∧
      (shallow [-2147483648, -1]).stackWf = true ∧ (shallow [-2147483648, -1]).operand 0 ≠ 0 ∧
      ((shallow [-2147483648, -1]).operand 1).toInt = -2147483648 ∧
      ((shallow [-2147483648, -1]).operand 0).toInt = -1 := by decide

theorem witness_NotPushesTheZeroTest :
    ((shallow [0]).stackWf = true ∧ (shallow [0]).operand 0 = 0) ∧
      ((shallow [-3]).stackWf = true ∧ (shallow [-3]).operand 0 ≠ 0) ∧
      (shallow []).stackWf = true ∧ (shallow []).stk = [] := by decide

theorem witness_GtPushesTheSignedComparison :
    ((shallow [3, 2]).stackWf = true ∧ ((shallow [3, 2]).operand 1).toInt > ((shallow [3, 2]).operand 0).toInt) ∧
      ((shallow [2, 2]).stackWf = true ∧ ¬ ((shallow [2, 2]).operand 1).toInt > ((shallow [2, 2]).operand 0).toInt) ∧
      ((shallow []).stackWf = true ∧ (shallow []).stk = []) ∧
      ((shallow [-1]).stackWf = true ∧ (shallow [-1]).stk = [0xFFFFFFFF] ∧ (0xFFFFFFFF : Word).toInt < 0) ∧
      (shallow [0]).stackWf = true ∧ (shallow [0]).stk = [0] ∧ ¬ (0 : Word).toInt < 0 := by decide

theorem witness_AdvanceMovesOneCellAndWraps :
    (place 79 0 .right).dir = .right ∧ (place 0 0 .left).dir = .left ∧ (place 0 0 .up).dir = .up ∧
      (place 0 24 .down).dir = .down := by decide

theorem witness_RightAndLeftSetTheDirection :
    (place 0 5 .right).dir = .right ∧ (place 0 5 .right).pcx = 0 := by decide

theorem witness_UpAndDownSetTheDirection : (place 3 0 .right).pcy = 0 ∧ (place 3 24 .right).pcy = 24 := by decide

theorem witness_RandSetsTheDrawnDirection :
    ({ State.reset with rnd := [3] } : State).rnd = 3 :: [] ∧ State.reset.rnd = [] := by decide

theorem witness_HorizontalIfTurnsOnThePoppedValue :
    (withStack [0]).operand 0 = 0 ∧ (withStack [-2]).operand 0 ≠ 0 ∧ (withStack []).stk = [] := by decide

theorem witness_VerticalIfTurnsOnThePoppedValue :
    (withStack [0]).operand 0 = 0 ∧ (withStack [-1]).operand 0 ≠ 0 ∧ (withStack []).stk = [] := by decide

theorem witness_BridgeSkipsExactlyOneCell :
    ((place 79 0 .right).dir = .right ∧ (place 79 0 .right).pcx = 79) ∧
      (place 78 0 .right).dir = .right ∧ (place 78 0 .right).pcx = 78 := by decide

theorem witness_DirectionOnlyChangedByDirectionOpcodes :
    (∃ t, exec .swap (withStack [1, 2]) = .next t ∧ Instr.swap ≠ .right) ∧
      (∃ t, exec .vif (withStack [1, 2]) = .next t ∧ t.dir = .up ∧ t.pcy = 24) ∧
      ∃ t : State, step (about 0x3C) = .next t ∧ t.dir ≠ (about 0x3C).dir :=
  ⟨⟨_, rfl, by decide⟩, ⟨_, rfl, by decide⟩, _, rfl, by decide⟩

theorem witness_PositionMovesByAdvanceOnly :
    (∃ t : State, exec .ini { State.reset with intIn := [.int 1] } = .next t ∧ t.fkind = none) ∧
      ∃ t : State, exec .bridge State.reset = .next t ∧ t.fkind = none :=
  ⟨⟨_, rfl, rfl⟩, _, rfl, rfl⟩

/-- The corner cells of the grid, and the four ways out of it. -/
theorem witness_GetPushesTheCellOrFaults :
    ((shallow [79, 24]).stackWf = true ∧ ((shallow [79, 24]).operand 1).toInt = 79 ∧
        ((shallow [79, 24]).operand 0).toInt = 24) ∧
      ((shallow []).stackWf = true ∧ ((shallow []).operand 1).toInt = 0 ∧ ((shallow []).operand 0).toInt = 0) ∧
      ((shallow [80, 0]).stackWf = true ∧ 80 ≤ ((shallow [80, 0]).operand 1).toInt) ∧
      ((shallow [0, 25]).stackWf = true ∧ 25 ≤ ((shallow [0, 25]).operand 0).toInt) ∧
      ((shallow [-1, 0]).stackWf = true ∧ ((shallow [-1, 0]).operand 1).toInt < 0) ∧
      (shallow [0, -1]).stackWf = true ∧ ((shallow [0, -1]).operand 0).toInt < 0 := by decide

theorem witness_PutStoresOneCellOrFaults :
    ((withStack [5, 79, 24]).grid.wf = true ∧ ((withStack [5, 79, 24]).operand 1).toInt = 79 ∧
        ((withStack [5, 79, 24]).operand 0).toInt = 24) ∧
      ((withStack []).grid.wf = true ∧ ((withStack []).operand 1).toInt = 0 ∧ ((withStack []).operand 0).toInt = 0) ∧
      80 ≤ ((withStack [5, 80, 0]).operand 1).toInt ∧ 25 ≤ ((withStack [5, 0, 25]).operand 0).toInt ∧
      ((withStack [5, -1, 0]).operand 1).toInt < 0 ∧ ((withStack [5, 0, -1]).operand 0).toInt < 0 := by decide

theorem witness_OnlyPutWritesTheGrid :
    (∃ t : State, (withStack [1]).grid.wf = true ∧ exec .get (withStack [1]) = .next t ∧ Instr.get ≠ .put) ∧
      (∃ t : State, exec .put (withStack [5, 2, 2]) = .next t ∧
        gridAddr ((withStack [5, 2, 2]).operand 1) ((withStack [5, 2, 2]).operand 0) = some 162) ∧
      ∃ t : State, exec .put (withStack [5, 2, 25]) = .next t ∧
        gridAddr ((withStack [5, 2, 25]).operand 1) ((withStack [5, 2, 25]).operand 0) = none :=
  ⟨⟨_, by decide, rfl, by decide⟩, ⟨_, rfl, by decide⟩, _, rfl, by decide⟩

/-- A move of the host with `run` up before a run, and one during a run with `run` down. -/
theorem witness_OnlyPutWritesTheGrid_host :
    (State.reset.run = true ∧ (State.reset.hostMove (.draw 1)).isSome = true) ∧
      (waiting .int false).inRun = true ∧ ((waiting .int false).hostMove (.run true)).isSome = true ∧
      HostMove.run true ≠ .reset := by decide

theorem witness_OutOfBoundsExactlyOutsideTheGrid :
    (∃ t : State, (withStack [80, 0]).fkind = none ∧ exec .get (withStack [80, 0]) = .next t ∧
        t.fkind = some .outOfBounds) ∧
      ∃ t : State, step { about 0x70 with stk := [25] } = .next t ∧ t.fkind = some .outOfBounds :=
  ⟨⟨_, rfl, rfl, by decide⟩, _, rfl, by decide⟩

/-- A store into the very cell that is fetched next, and one elsewhere. -/
theorem witness_StoreIsSeenByTheNextFetchAndGet :
    (∃ t : State, (withStack [64, 1, 0]).stackWf = true ∧ (withStack [64, 1, 0]).grid.wf = true ∧
        gridAddr ((withStack [64, 1, 0]).operand 1) ((withStack [64, 1, 0]).operand 0) = some 1 ∧
        exec .put (withStack [64, 1, 0]) = .next t ∧ cellAddr t.pcx t.pcy = 1) ∧
      ∃ t u : State, exec .put (withStack [64, 9, 0]) = .next t ∧ cellAddr t.pcx t.pcy ≠ 9 ∧ u.grid = t.grid ∧
        u.depth = t.depth ∧ u.stk = (withStack [64, 9, 0]).operand 0 :: (withStack [64, 9, 0]).operand 1 :: t.stk :=
  ⟨⟨_, by decide, by decide, by decide, rfl, by decide⟩,
    ⟨_, { State.reset with grid := [(9, 64)], stk := [0, 9] }, rfl, by decide, by decide, by decide, by decide⟩⟩

theorem witness_BlankOnlyAdvances : (0x1F : Byte).toNat < 0x20 := by decide

theorem witness_QuoteFlipsStringMode : (about 0x22).strmode = false ∧ (about 0x122).strmode = true := by decide

theorem witness_OutcEmitsACharToken : (withStack []).stk = [] := by decide

theorem witness_OutiEmitsAnIntToken :
    (withStack []).stk = [] ∧ (BitVec.ofInt 32 (-2147483648)).toInt < 0 := by decide

theorem witness_IniTakesOneIntegerToken :
    fullStack.full = true ∧
      (({ shallow [1] with intIn := [.int 7] } : State).full = false ∧
        ({ shallow [1] with intIn := [.int 7] } : State).intIn = .int 7 :: []) ∧
      ({ shallow [1] with intIn := [.absent] } : State).full = false ∧
      ({ shallow [1] with intIn := [.absent] } : State).intIn = .absent :: [] := by decide

theorem witness_IncTakesOneCharacterToken :
    fullStack.full = true ∧
      (({ shallow [1] with charIn := [.char 255] } : State).full = false ∧
        ({ shallow [1] with charIn := [.char 255] } : State).charIn = .char 255 :: []) ∧
      ({ shallow [1] with charIn := [.absent] } : State).full = false ∧
      ({ shallow [1] with charIn := [.absent] } : State).charIn = .absent :: [] := by decide

theorem witness_InputHoldKeepsAllStateUntilAnswered :
    ((about 0x26).full = false ∧ (about 0x26).intIn = [] ∧ (about 0x26).charIn = []) ∧
      ((waiting .int true).requestWf = true ∧ (waiting .int true).holding = true ∧
        (waiting .int true).request = some .int) ∧
      ((waiting .char false).requestWf = true ∧ (waiting .char false).holding = true ∧
        (waiting .char false).request = some .char ∧ (waiting .char false).run = false) := by decide

theorem witness_StackOverflowExactlyOnAFullStack :
    ∃ t : State, fullStack.stackWf = true ∧ fullStack.fkind = none ∧ exec .dup fullStack = .next t ∧
      t.fkind = some .stackOverflow := ⟨_, by decide, by decide, rfl, by decide⟩

theorem witness_FaultsArePrecise :
    (∃ t : State, (withStack [80, 0]).fkind = none ∧ exec .get (withStack [80, 0]) = .next t ∧
        t.fkind = some .outOfBounds) ∧
      ∃ t : State, (withStack [1]).fkind = none ∧ exec .pop (withStack [1]) = .next t ∧ t.fkind = none :=
  ⟨⟨_, rfl, rfl, by decide⟩, _, rfl, rfl, by decide⟩

theorem witness_ModeBitsOnlyChangedByTheirInstruction :
    (∃ t : State, exec .add (withStack [1, 2]) = .next t ∧ Instr.add ≠ .quote ∧ Instr.add ≠ .exit) ∧
      (∃ t : State, step { State.reset with halted := true } = .next t) ∧
      ∃ t : State, step { State.reset with fkind := some .outOfBounds } = .next t ∧
        ({ State.reset with fkind := some .outOfBounds } : State).fkind = some .outOfBounds :=
  ⟨⟨_, rfl, by decide, by decide⟩, ⟨_, rfl⟩, _, rfl, rfl⟩

theorem witness_PortsOnlyUsedByTheirInstruction :
    (∃ t : State, exec .outc (withStack [65]) = .next t ∧ Instr.outc ≠ .ini ∧ Instr.outc ≠ .inc ∧
        Instr.outc ≠ .rand) ∧
      ∃ t : State, exec .ini (withStack [65]) = .next t ∧ t.request = some .int :=
  ⟨⟨_, rfl, by decide, by decide, by decide⟩, _, rfl, rfl⟩

theorem witness_StackChangesOnlyByPopsAndPushes :
    (∃ t : State, exec .swap (withStack []) = .next t ∧ t.fkind = none) ∧
      ∃ t : State, exec .inc { State.reset with charIn := [.absent] } = .next t ∧ t.fkind = none ∧
        ({ State.reset with charIn := [.absent] } : State).charIn ≠ [] :=
  ⟨⟨_, rfl, by decide⟩, _, rfl, by decide, by decide⟩

theorem witness_OutputHistoryDoesNotInfluenceTheRun :
    ∃ t : State, step { about 0x2C with stk := [65] } = .next t := ⟨_, rfl⟩

/-- Two cells of an empty row, in string mode, on a stack with room for just those two. -/
def shortString : State := { about 0x141 with depth := .cells 2 }

theorem witness_StringRunPushesTheCodesInOrder :
    (shortString.halted = false ∧ shortString.fkind = none ∧ shortString.run = true ∧ shortString.request = none ∧
      shortString.strmode = true) ∧
      (∀ d : Nat, shortString.depth = .cells d → shortString.sp + 2 ≤ d) ∧
      ∀ j : Nat, j < 2 → (State.advance^[j] shortString).fetch ≠ 0x22 :=
  ⟨by decide, fun d h => by cases h; decide, by decide⟩

/-- A lone quote on column 0, moving down, on a stack with room for just one turn. -/
def loneQuote : State := { about 0x22 with dir := .down, depth := .cells 24 }

theorem witness_LoneQuoteClosesItsOwnString :
    25 = (if loneQuote.dir = .right ∨ loneQuote.dir = .left then 80 else 25) ∧
      (loneQuote.halted = false ∧ loneQuote.fkind = none ∧ loneQuote.run = true ∧ loneQuote.request = none ∧
        loneQuote.strmode = false) ∧
      (∀ d : Nat, loneQuote.depth = .cells d → loneQuote.sp + (25 - 1) ≤ d) ∧ loneQuote.fetch = 0x22 ∧
      ∀ j : Nat, 1 ≤ j → j < 25 → (State.advance^[j] loneQuote).fetch ≠ 0x22 := by
  refine ⟨by decide, by decide, fun d h => by cases h; decide, by decide, ?_⟩
  have h : ∀ j : Fin 25, 1 ≤ j.val → (State.advance^[j.val] loneQuote).fetch ≠ 0x22 := by decide
  exact fun j h1 h2 => h ⟨j, h2⟩ h1

theorem witness_LoaderMakesTheGridOfTheText :
    ((State.reset.setRun false).run = false ∧ (State.reset.setRun false).inRun = false ∧
        (State.reset.setRun false).grid.wf = true) ∧
      State.reset.run = true ∧ (waiting .int false).inRun = true := by decide

theorem witness_RenderedTextReadsBack : 0 ≤ (255 : Word).toInt ∧ (255 : Word).toInt ≤ 255 := by decide

/-- One move of each kind from a core that holds, and a core that does not hold. -/
theorem witness_HoldEndsOnlyByAnswerOrReset :
    ((waiting .int true).holding = true ∧ (waiting .int true).requestWf = true ∧
        ((waiting .int true).hostMove (.answerInt .absent)).isSome = true ∧
        ((waiting .int true).hostMove .reset).isSome = true) ∧
      ((waiting .char false).holding = true ∧ (waiting .char false).requestWf = true ∧
        ((waiting .char false).hostMove (.answerChar (.char 0))).isSome = true ∧
        ((waiting .char false).hostMove (.run true)).isSome = true ∧
        ((waiting .char false).hostMove (.draw 2)).isSome = true) ∧
      State.reset.holding = false := by decide

end Sys2Proof.Tests
end

/-! Proofs of the family 40_stack. -/

namespace Sys2Proof.Machine

/-! ### `pop()` and `POP` (40_stack R71, R78) -/

theorem pop_of_nil {s : State} (h : s.stk = []) : pop s = (0, s) := by
  simp only [pop, h]

theorem pop_of_cons {s : State} {v : Word} {rest : List Word} (h : s.stk = v :: rest) :
    pop s = (v, s.setStk rest) := by
  simp only [pop, h]

/-- `SP` drops by one, and stays 0 on the empty stack. -/
theorem pop_sp (s : State) : (pop s).2.sp = s.sp - 1 := by
  rw [pop_eq, State.setStk_sp, List.length_drop, State.sp]

theorem exec_pop (s : State) : exec .pop s = .next (s.setStk (s.stk.drop 1)).advance := by
  rw [exec_eq_finish, operationEffect, finish_done, pop_eq]

/-- On the empty stack `POP` only advances: the phantom zero it discards was never a cell. -/
theorem exec_pop_of_nil {s : State} (h : s.stk = []) : exec .pop s = .next s.advance := by
  rw [exec_eq_finish, operationEffect, finish_done, pop_of_nil h]

/-- Settles O18: `pop()` by the two shapes of the stack, `POP` as the state that `pop()` leaves, advanced. -/
theorem popRemovesTheTopOrYieldsPhantomZero : Obligations.PopRemovesTheTopOrYieldsPhantomZero := by
  unfold Obligations.PopRemovesTheTopOrYieldsPhantomZero
  refine ⟨fun s => ⟨pop_of_nil, fun _ _ => pop_of_cons, pop_sp s⟩, ?_, fun s => ⟨exec_pop s, exec_pop_of_nil⟩⟩
  exact Laws.DecodeEncode.pop rfl false rfl

end Sys2Proof.Machine

/-! Proofs of the family 41_arithmetic. -/

namespace Sys2Proof.Machine

/-! ### The operands of a stack with fewer than two cells (10_state R12, 40_stack R71) -/

/-- Every operand of the empty stack is the phantom zero. -/
theorem State.operand_of_nil {s : State} (h : s.stk = []) (n : Nat) : s.operand n = 0 := by
  rw [State.operand, h, List.getD_nil]

theorem State.operand_zero_of_singleton {s : State} {r : Word} (h : s.stk = [r]) : s.operand 0 = r := by
  rw [State.operand, h, List.getD_cons_zero]

/-- The second operand of a stack of one cell is the phantom zero. -/
theorem State.operand_one_of_singleton {s : State} {r : Word} (h : s.stk = [r]) : s.operand 1 = 0 := by
  rw [State.operand, h, List.getD_cons_succ, List.getD_nil]

/-! ### `NOT` (41_arithmetic R91) -/

theorem truthValue_isZero (v : Word) : truthValue (isZero v) = if v = 0 then 1 else 0 := by
  simp only [truthValue, isZero, decide_eq_true_eq]

theorem exec_not {s : State} (h : s.stackWf = true) :
    exec .not s = .next (s.setStk ((if s.operand 0 = 0 then 1 else 0) :: s.stk.drop 1)).advance := by
  rw [exec_eq_finish, operationEffect, unary_eq _ h, finish_done, truthValue_isZero]

theorem exec_not_of_zero {s : State} (h : s.stackWf = true) (hv : s.operand 0 = 0) :
    exec .not s = .next (s.setStk (1 :: s.stk.drop 1)).advance := by
  rw [exec_not h, if_pos hv]

theorem exec_not_of_ne_zero {s : State} (h : s.stackWf = true) (hv : s.operand 0 ≠ 0) :
    exec .not s = .next (s.setStk (0 :: s.stk.drop 1)).advance := by
  rw [exec_not h, if_neg hv]

/-- On the empty stack the phantom zero is popped, and it is zero. -/
theorem exec_not_of_nil {s : State} (h : s.stackWf = true) (hs : s.stk = []) :
    exec .not s = .next (s.setStk [1]).advance := by
  rw [exec_not_of_zero h (State.operand_of_nil hs 0), hs, List.drop_nil]

/-- Settles O25: `NOT` by the two outcomes of the zero test; the empty stack is a case of the first. -/
theorem notPushesTheZeroTest : Obligations.NotPushesTheZeroTest := by
  unfold Obligations.NotPushesTheZeroTest
  refine ⟨Laws.DecodeEncode.not rfl false rfl, fun s h => ?_⟩
  exact ⟨exec_not_of_zero h, exec_not_of_ne_zero h, exec_not_of_nil h⟩

/-! ### `GT` (41_arithmetic R92) -/

theorem truthValue_isGreater (lhs rhs : Word) :
    truthValue (isGreater lhs rhs) = if lhs.toInt > rhs.toInt then 1 else 0 := by
  simp only [truthValue, isGreater, decide_eq_true_eq, gt_iff_lt]

theorem exec_gt {s : State} (h : s.stackWf = true) :
    exec .gt s = .next (s.setStk
      ((if (s.operand 1).toInt > (s.operand 0).toInt then 1 else 0) :: s.stk.drop 2)).advance := by
  rw [exec_eq_finish, operationEffect, binary_eq _ h, finish_done, truthValue_isGreater]

theorem exec_gt_of_greater {s : State} (h : s.stackWf = true) (hg : (s.operand 1).toInt > (s.operand 0).toInt) :
    exec .gt s = .next (s.setStk (1 :: s.stk.drop 2)).advance := by
  rw [exec_gt h, if_pos hg]

theorem exec_gt_of_not_greater {s : State} (h : s.stackWf = true)
    (hg : ¬ (s.operand 1).toInt > (s.operand 0).toInt) :
    exec .gt s = .next (s.setStk (0 :: s.stk.drop 2)).advance := by
  rw [exec_gt h, if_neg hg]

/-- On the empty stack both operands are the phantom zero, and equal operands give 0. -/
theorem exec_gt_of_nil {s : State} (h : s.stackWf = true) (hs : s.stk = []) :
    exec .gt s = .next (s.setStk [0]).advance := by
  have hg : ¬ (s.operand 1).toInt > (s.operand 0).toInt := by
    rw [State.operand_of_nil hs, State.operand_of_nil hs]
    exact lt_irrefl _
  rw [exec_gt_of_not_greater h hg, hs, List.drop_nil]

/-- On `[r]` the phantom zero stands on the left, so the comparison is a sign test of `r`. -/
theorem operand_greater_iff_neg_of_singleton {s : State} {r : Word} (hs : s.stk = [r]) :
    (s.operand 1).toInt > (s.operand 0).toInt ↔ r.toInt < 0 := by
  have h0 : (0 : Word).toInt = 0 := BitVec.toInt_zero
  rw [State.operand_one_of_singleton hs, State.operand_zero_of_singleton hs, h0, gt_iff_lt]

theorem exec_gt_of_singleton_neg {s : State} {r : Word} (h : s.stackWf = true) (hs : s.stk = [r])
    (hr : r.toInt < 0) : exec .gt s = .next (s.setStk [1]).advance := by
  rw [exec_gt_of_greater h ((operand_greater_iff_neg_of_singleton hs).mpr hr), hs]
  rfl

theorem exec_gt_of_singleton_nonneg {s : State} {r : Word} (h : s.stackWf = true) (hs : s.stk = [r])
    (hr : ¬ r.toInt < 0) : exec .gt s = .next (s.setStk [0]).advance := by
  rw [exec_gt_of_not_greater h ((operand_greater_iff_neg_of_singleton hs).not.mpr hr), hs]
  rfl

/-- Settles O26: `GT` by the two outcomes of the signed comparison, then the stacks of no cell and of one cell. -/
theorem gtPushesTheSignedComparison : Obligations.GtPushesTheSignedComparison := by
  unfold Obligations.GtPushesTheSignedComparison
  refine ⟨Laws.DecodeEncode.gt rfl false rfl, fun s h => ?_⟩
  exact ⟨exec_gt_of_greater h, exec_gt_of_not_greater h, exec_gt_of_nil h,
    fun _ hs => ⟨exec_gt_of_singleton_neg h hs, exec_gt_of_singleton_nonneg h hs⟩⟩

end Sys2Proof.Machine

/-! Proofs of the family 42_pc_control. -/

namespace Sys2Proof.Machine

/-! ### The advance by direction, and what it looks at (42_pc_control R100) -/

theorem State.advance_of_right {s : State} (h : s.dir = .right) : s.advance = { s with pcx := s.pcx + 1 } := by
  simp only [State.advance, h]

theorem State.advance_of_left {s : State} (h : s.dir = .left) : s.advance = { s with pcx := s.pcx + 79 } := by
  simp only [State.advance, h]

/-- The advance looks at the position and the direction only. -/
theorem State.advance_pos_congr {s t : State} (hx : s.pcx = t.pcx) (hy : s.pcy = t.pcy) (hd : s.dir = t.dir) :
    s.advance.pcx = t.advance.pcx ∧ s.advance.pcy = t.advance.pcy := by
  unfold State.advance
  rw [hd]
  split <;> simp only [hx, hy, and_self]

theorem State.advance_setGrid (s : State) (m : Memory) : (s.setGrid m).advance = s.advance.setGrid m := by
  unfold State.advance
  rw [State.setGrid_dir]
  split <;> rfl

theorem State.setDir_eq_self {s : State} {d : Dir} (h : s.dir = d) : s.setDir d = s := by
  rw [← h]
  rfl

/-! ### Only the direction opcodes turn (42_pc_control R101) -/

/-- The seven direction opcodes. -/
def Turns (i : Instr) : Prop :=
  i = .right ∨ i = .left ∨ i = .up ∨ i = .down ∨ i = .rand ∨ i = .hif ∨ i = .vif

/-- An operation that either leaves `v` or raises a fault leaves `v` when it is done. -/
theorem eq_of_done_or_raised {e : Effect} {u v : State} {k : FaultKind} (he : e = .done v ∨ e = .raised k)
    (h : e = .done u) : u = v := by
  subst h
  rcases he with he | he
  · exact Effect.done.inj he
  · cases he

/-- An operation that is done leaves the direction, unless it is one of the seven. -/
theorem operationEffect_done_dir {i : Instr} {s u : State} (hi : ¬ Turns i) (h : operationEffect i s = .done u) :
    u.dir = s.dir := by
  cases i with
  | right | left | up | down | rand | hif | vif => simp [Turns] at hi
  | blank => rw [← Effect.done.inj h]
  | exit => rw [← Effect.done.inj h, State.setHalted_dir]
  | quote => rw [← Effect.done.inj h, State.setStrmode_dir]
  | bridge => rw [← Effect.done.inj h, State.advance_dir]
  | pop => rw [← Effect.done.inj h, pop_eq, State.setStk_dir]
  | outc | outi =>
    rw [operationEffect, popToToken_eq] at h
    rw [← Effect.done.inj h, State.emit_dir, State.setStk_dir]
  | swap => rw [eq_of_done_or_raised (swap_cases s) h, State.setStk_dir]
  | dup => rw [eq_of_done_or_raised (duplicate_cases s) h, State.setStk_dir]
  | add | sub | mul | div | mod => rw [eq_of_done_or_raised (binary_cases _ s) h, State.setStk_dir]
  | gt => rw [operationEffect] at h; rw [eq_of_done_or_raised (binary_cases _ s) h, State.setStk_dir]
  | not => rw [operationEffect] at h; rw [eq_of_done_or_raised (unary_cases _ s) h, State.setStk_dir]
  | pushd | strpush =>
    rw [eq_of_done_or_raised ((push_cases rfl).imp And.right And.right) h, State.setStk_dir]
  | get =>
    rcases gridGet_cases s with ⟨_, _, e⟩ | ⟨_, e⟩
    · rw [eq_of_done_or_raised e h, State.setStk_dir]
    · cases e.symm.trans h
  | put =>
    rcases gridPut_cases s with ⟨_, _, e⟩ | ⟨_, e⟩
    · cases e.symm.trans h; rfl
    · cases e.symm.trans h
  | ini =>
    rcases inputInt_cases s with ⟨_, e⟩ | ⟨_, _, e⟩ | ⟨_, _, _, _, e⟩ <;> cases e.symm.trans h
    rfl
  | inc =>
    rcases inputChar_cases s with ⟨_, e⟩ | ⟨_, _, e⟩ | ⟨_, _, _, _, e⟩ <;> cases e.symm.trans h
    rfl

/-- Taking a draw moves nothing. -/
theorem drawDir_pos (s : State) : (drawDir s).2.pcx = s.pcx ∧ (drawDir s).2.pcy = s.pcy := by
  rcases drawDir_cases s with ⟨_, e⟩ | ⟨_, _, _, e⟩ <;> rw [e] <;> exact ⟨rfl, rfl⟩

/-- Each of the seven is done, and has not moved before the advance of its own step. -/
theorem operationEffect_of_turns {i : Instr} (hi : Turns i) (s : State) :
    ∃ u, operationEffect i s = .done u ∧ u.pcx = s.pcx ∧ u.pcy = s.pcy := by
  rcases hi with rfl | rfl | rfl | rfl | rfl | rfl | rfl
  · exact ⟨_, rfl, rfl, rfl⟩
  · exact ⟨_, rfl, rfl, rfl⟩
  · exact ⟨_, rfl, rfl, rfl⟩
  · exact ⟨_, rfl, rfl, rfl⟩
  · exact ⟨_, rfl, drawDir_pos s⟩
  · rw [operationEffect, popToDir_eq]; exact ⟨_, rfl, rfl, rfl⟩
  · rw [operationEffect, popToDir_eq]; exact ⟨_, rfl, rfl, rfl⟩

theorem exec_dir_of_not_turns {i : Instr} {s t : State} (hi : ¬ Turns i) (h : exec i s = .next t) :
    t.dir = s.dir := by
  rcases exec_cases h with ⟨u, hu, rfl⟩ | ⟨k, _, rfl⟩ | ⟨k, _, rfl⟩
  · rw [State.advance_dir, operationEffect_done_dir hi hu]
  · rfl
  · rfl

/-- One of the seven ends one advance on, in the direction it leaves. -/
theorem exec_pos_of_turns {i : Instr} {s t : State} (hi : Turns i) (h : exec i s = .next t) :
    t.pcx = (s.setDir t.dir).advance.pcx ∧ t.pcy = (s.setDir t.dir).advance.pcy := by
  obtain ⟨u, hu, hx, hy⟩ := operationEffect_of_turns hi s
  rw [exec_eq_finish, hu, finish_done, Host.Outcome.next.injEq] at h
  subst h
  exact State.advance_pos_congr hx hy (State.advance_dir u).symm

/-- The instruction of an input request does not turn. -/
theorem InKind.not_turns (k : InKind) : ¬ Turns k.instr := by
  cases k <;> simp [InKind.instr, Turns]

/-- A step that turns has fetched one of the seven: the other steps are no step, an input step, or a fault. -/
theorem step_fetches_turn_of_dir_ne {s t : State} (h : step s = .next t) (hd : t.dir ≠ s.dir) :
    ∃ i, decode s.strmode s.fetch = .operation i ∧ Turns i := by
  rcases step_cases h with ⟨_, rfl⟩ | ⟨_, k, _, hk⟩ | ⟨_, _, i, hi, ht⟩ | ⟨_, _, c, _, rfl⟩
  · exact absurd rfl hd
  · exact absurd ((exec_dir_of_not_turns k.not_turns hk).trans (State.setBegun_dir s true)) hd
  · have hi' : Turns i := by_contra fun hn => hd ((exec_dir_of_not_turns hn ht).trans (State.setBegun_dir s true))
    exact ⟨i, hi, hi'⟩
  · exact absurd rfl hd

/-- Settles O35: the direction through the operation and the advance of every other instruction, the position through
those of the seven, and the step by all that a step can do. -/
theorem directionOnlyChangedByDirectionOpcodes : Obligations.DirectionOnlyChangedByDirectionOpcodes := by
  unfold Obligations.DirectionOnlyChangedByDirectionOpcodes
  refine ⟨State.advance_dir, fun i s t h _ _ _ _ _ _ _ => ?_, fun i s t h hi => exec_pos_of_turns hi h,
    fun s t => step_fetches_turn_of_dir_ne⟩
  refine exec_dir_of_not_turns ?_ h
  rintro (hi | hi | hi | hi | hi | hi | hi) <;> contradiction

/-! ### `RIGHT` and `LEFT` (42_pc_control R102, R103) -/

theorem exec_right (s : State) : exec .right s = .next (s.setDir .right).advance := by
  rw [exec_eq_finish, operationEffect, finish_done]

theorem exec_left (s : State) : exec .left s = .next (s.setDir .left).advance := by
  rw [exec_eq_finish, operationEffect, finish_done]

/-- `RIGHT` only advances where the direction is right already. -/
theorem exec_right_of_right {s : State} (h : s.dir = .right) : exec .right s = .next s.advance := by
  rw [exec_right, State.setDir_eq_self h]

/-- `LEFT` in column 0 wraps to column 79. -/
theorem exec_left_of_zero {s : State} (h : s.pcx = 0) :
    exec .left s = .next { s with dir := .left, pcx := 79 } := by
  rw [exec_left, State.advance_of_left (State.setDir_dir s .left), State.setDir_pcx, h]
  rfl

/-- Settles O29: both as the state with the direction set, advanced, and the two corner cases of that. -/
theorem rightAndLeftSetTheDirection : Obligations.RightAndLeftSetTheDirection := by
  unfold Obligations.RightAndLeftSetTheDirection
  refine ⟨Laws.DecodeEncode.right rfl false rfl, Laws.DecodeEncode.left rfl false rfl, fun s => ?_⟩
  exact ⟨exec_right s, exec_left s, exec_right_of_right, exec_left_of_zero⟩

/-! ### `HIF` and `VIF` (42_pc_control R107, R108) -/

theorem exec_hif (s : State) : exec .hif s =
    .next ((s.setStk (s.stk.drop 1)).setDir (if s.operand 0 = 0 then .right else .left)).advance := by
  rw [exec_eq_finish, operationEffect, popToDir_eq, finish_done]
  simp only [isZero, decide_eq_true_eq]

theorem exec_vif (s : State) : exec .vif s =
    .next ((s.setStk (s.stk.drop 1)).setDir (if s.operand 0 = 0 then .down else .up)).advance := by
  rw [exec_eq_finish, operationEffect, popToDir_eq, finish_done]
  simp only [isZero, decide_eq_true_eq]

/-- Dropping a cell of the empty stack changes nothing. -/
theorem State.setStk_drop_of_nil {s : State} (h : s.stk = []) (n : Nat) : s.setStk (s.stk.drop n) = s := by
  rw [h, List.drop_nil, ← h]
  rfl

/-- On the empty stack `HIF` tests the phantom zero. -/
theorem exec_hif_of_nil {s : State} (h : s.stk = []) : exec .hif s = .next (s.setDir .right).advance := by
  rw [exec_hif, if_pos (State.operand_of_nil h 0), State.setStk_drop_of_nil h]

/-- On the empty stack `VIF` tests the phantom zero. -/
theorem exec_vif_of_nil {s : State} (h : s.stk = []) : exec .vif s = .next (s.setDir .down).advance := by
  rw [exec_vif, if_pos (State.operand_of_nil h 0), State.setStk_drop_of_nil h]

/-- Settles O32: `HIF` by the two outcomes of the zero test; the empty stack is a case of the first. -/
theorem horizontalIfTurnsOnThePoppedValue : Obligations.HorizontalIfTurnsOnThePoppedValue := by
  unfold Obligations.HorizontalIfTurnsOnThePoppedValue
  refine ⟨Laws.DecodeEncode.hif rfl false rfl, fun s => ⟨fun hv => ?_, fun hv => ?_, exec_hif_of_nil⟩⟩
  · rw [exec_hif, if_pos hv]; rfl
  · rw [exec_hif, if_neg hv]; rfl

/-- Settles O33: `VIF` by the two outcomes of the zero test; the empty stack is a case of the first. -/
theorem verticalIfTurnsOnThePoppedValue : Obligations.VerticalIfTurnsOnThePoppedValue := by
  unfold Obligations.VerticalIfTurnsOnThePoppedValue
  refine ⟨Laws.DecodeEncode.vif rfl false rfl, fun s => ⟨fun hv => ?_, fun hv => ?_, exec_vif_of_nil⟩⟩
  · rw [exec_vif, if_pos hv]; rfl
  · rw [exec_vif, if_neg hv]; rfl

/-! ### `BRIDGE` (42_pc_control R109) -/

theorem exec_bridge (s : State) : exec .bridge s = .next s.advance.advance := by
  rw [exec_eq_finish, operationEffect, finish_done]

theorem State.advance_advance_of_right {s : State} (h : s.dir = .right) :
    s.advance.advance = { s with pcx := s.pcx + 1 + 1 } := by
  rw [State.advance_of_right ((State.advance_dir s).trans h), State.advance_of_right h]

/-- `BRIDGE` in column 79 wraps with its first advance. -/
theorem exec_bridge_right_of_79 {s : State} (hd : s.dir = .right) (hx : s.pcx = 79) :
    exec .bridge s = .next { s with pcx := 1 } := by
  rw [exec_bridge, State.advance_advance_of_right hd, hx]
  rfl

/-- `BRIDGE` in column 78 wraps with its second advance. -/
theorem exec_bridge_right_of_78 {s : State} (hd : s.dir = .right) (hx : s.pcx = 78) :
    exec .bridge s = .next { s with pcx := 0 } := by
  rw [exec_bridge, State.advance_advance_of_right hd, hx]
  rfl

/-- `BRIDGE` moves the same way over any grid. -/
theorem exec_bridge_setGrid (s : State) (m : Memory) :
    exec .bridge (s.setGrid m) = .next (s.advance.advance.setGrid m) := by
  rw [exec_bridge, State.advance_setGrid, State.advance_setGrid]

/-- Settles O34: `BRIDGE` as two advances, which do not look at the grid, and the two wraps. -/
theorem bridgeSkipsExactlyOneCell : Obligations.BridgeSkipsExactlyOneCell := by
  unfold Obligations.BridgeSkipsExactlyOneCell
  refine ⟨Laws.DecodeEncode.bridge rfl false rfl, Laws.DecodeEncode.strpush 0x23 rfl true rfl, fun s => ?_⟩
  exact ⟨exec_bridge s, exec_bridge_right_of_79, exec_bridge_right_of_78, fun _ => exec_bridge_setGrid s _⟩

end Sys2Proof.Machine

/-! Proofs of the family 44_system_io. -/

namespace Sys2Proof

/-! ### Classification read backwards (30_encoding R52 to R56) -/

theorem mem_operationTable_of_lookup {c : Byte} {i : Instr} (h : operationTable.lookup c = some i) :
    (c, i) ∈ operationTable := by
  obtain ⟨l₁, l₂, e, _⟩ := List.lookup_eq_some_iff.mp h
  rw [e]
  exact List.mem_append_cons_self

theorem encodeCell_of_mem_operationTable : ∀ p ∈ operationTable, encodeCell p.2 = p.1 := by decide

/-- A code between `0` and `9` is that of the digit in its low four bits (30_encoding R54). -/
theorem encodeCell_pushd_setWidth {c : Byte} (hc : 0x30 ≤ c.toNat ∧ c.toNat ≤ 0x39) :
    encodeCell (.pushd (c.setWidth 4)) = c := by
  rw [encodeCell]
  bv_omega

/-- A code that classification gives an operation is the code of that operation, in either mode. -/
theorem encodeCell_of_decode {m : Bool} {c : Byte} {i : Instr} (h : decode m c = .operation i) :
    encodeCell i = c := by
  unfold decode at h
  split at h
  · cases h; rfl
  · split at h
    · next hc => cases h; exact encodeCell_pushd_setWidth hc
    · split at h
      · next hl => cases h; exact encodeCell_of_mem_operationTable _ (mem_operationTable_of_lookup hl)
      · cases h

/-- Outside string mode a code that is neither a digit nor in the table has no operation (30_encoding R56). -/
theorem decode_of_lookup_none {c : Byte} (hd : ¬ (0x30 ≤ c.toNat ∧ c.toNat ≤ 0x39))
    (hl : operationTable.lookup c = none) : decode false c = .unknownInstruction c := by
  simp only [decode, Bool.false_eq_true, false_and, if_false, if_neg hd, hl]

theorem le_toNat_of_mem_operationTable : ∀ p ∈ operationTable, 0x20 ≤ p.1.toNat := by decide

/-- The table holds no control code below the space. -/
theorem operationTable_lookup_of_lt {c : Byte} (hc : c.toNat < 0x20) : operationTable.lookup c = none := by
  rw [List.lookup_eq_none_iff]
  intro p hp
  have hle := le_toNat_of_mem_operationTable p hp
  rw [bne_iff_ne]
  rintro rfl
  omega

end Sys2Proof

namespace Sys2Proof.Machine

/-! ### `BLANK` (44_system_io R121) -/

theorem exec_blank (s : State) : exec .blank s = .next s.advance := by
  rw [exec_eq_finish, operationEffect, finish_done]

theorem decode_eq_blank_iff (c : Byte) : decode false c = .operation .blank ↔ c = 0x20 := by
  constructor
  · intro h
    exact (encodeCell_of_decode h).symm
  · rintro rfl
    exact Laws.DecodeEncode.blank rfl false rfl

theorem decode_of_lt_space {c : Byte} (hc : c.toNat < 0x20) : decode false c = .unknownInstruction c :=
  decode_of_lookup_none (by omega) (operationTable_lookup_of_lt hc)

/-- Settles O43: a code that decodes to `BLANK` is the code of `BLANK`, and a code below it is neither a digit nor in
the table. -/
theorem blankOnlyAdvances : Obligations.BlankOnlyAdvances := by
  unfold Obligations.BlankOnlyAdvances
  exact ⟨decode_eq_blank_iff, fun _ => decode_of_lt_space, Laws.DecodeEncode.strpush 0x20 rfl true rfl, exec_blank⟩

/-! ### `OUTC` and `OUTI` (44_system_io R123, R124) -/

/-- On the empty stack the token is that of the phantom zero. -/
theorem popToToken_of_nil {s : State} (f : Word → OutToken) (h : s.stk = []) :
    popToToken f s = .done (s.emit (f 0)) := by
  rw [popToToken_eq, State.setStk_drop_of_nil h, State.operand_of_nil h]

theorem exec_outc (s : State) :
    exec .outc s = .next ((s.setStk (s.stk.drop 1)).emit (.char (s.operand 0))).advance := by
  rw [exec_eq_finish, operationEffect, popToToken_eq, finish_done]

theorem exec_outc_of_nil {s : State} (h : s.stk = []) : exec .outc s = .next (s.emit (.char 0)).advance := by
  rw [exec_eq_finish, operationEffect, popToToken_of_nil _ h, finish_done]

/-- Settles O45: `OUTC` as the state with one cell fewer and one token more, advanced. -/
theorem outcEmitsACharToken : Obligations.OutcEmitsACharToken := by
  unfold Obligations.OutcEmitsACharToken
  exact ⟨Laws.DecodeEncode.outc rfl false rfl, fun s => ⟨exec_outc s, exec_outc_of_nil⟩⟩

theorem exec_outi (s : State) :
    exec .outi s = .next ((s.setStk (s.stk.drop 1)).emit (.int (s.operand 0))).advance := by
  rw [exec_eq_finish, operationEffect, popToToken_eq, finish_done]

theorem exec_outi_of_nil {s : State} (h : s.stk = []) : exec .outi s = .next (s.emit (.int 0)).advance := by
  rw [exec_eq_finish, operationEffect, popToToken_of_nil _ h, finish_done]

/-! ### The text of an integer token (44_system_io R124, R126) -/

theorem OutToken.render_int (v : Word) : (OutToken.int v).render = some (decimal v ++ [0x20]) := rfl

theorem decimal_zero : decimal 0 = [0x30] := by decide

theorem OutToken.render_int_zero : (OutToken.int 0).render = some [0x30, 0x20] := by
  rw [OutToken.render_int, decimal_zero]
  rfl

theorem decimal_of_neg {v : Word} (h : v.toInt < 0) : decimal v = 0x2D :: decimalDigits 10 v.toInt.natAbs := by
  rw [decimal, if_pos h]

theorem decimal_head_of_neg {v : Word} (h : v.toInt < 0) : (decimal v).head? = some 0x2D := by
  rw [decimal_of_neg h, List.head?_cons]

/-- Settles O46: `OUTI` as the state with one cell fewer and one token more, advanced; then the token's text. -/
theorem outiEmitsAnIntToken : Obligations.OutiEmitsAnIntToken := by
  unfold Obligations.OutiEmitsAnIntToken
  exact ⟨Laws.DecodeEncode.outi rfl false rfl, fun s => ⟨exec_outi s, exec_outi_of_nil⟩, OutToken.render_int,
    OutToken.render_int_zero, fun _ => decimal_head_of_neg⟩

end Sys2Proof.Machine

/-! Proofs of the family 70_reset_and_hazards. -/

namespace Sys2Proof.Machine

/-! ### Which cell the loader gives which code (70_reset_and_hazards R166) -/

theorem mem_allCells (x : Fin 80) (y : Fin 25) : (x, y) ∈ allCells :=
  List.mem_flatMap.mpr ⟨y, List.mem_finRange y, List.mem_map_of_mem (List.mem_finRange x)⟩

theorem textCell_of_char {lines : List (List Byte)} {x : Fin 80} {y : Fin 25} {l : List Byte} {c : Byte}
    (hl : lines[y.val]? = some l) (hc : l[x.val]? = some c) : textCell lines x y = c := by
  simp only [textCell, List.getD_eq_getElem?_getD, hl, hc, Option.getD_some]

theorem textCell_of_short_line {lines : List (List Byte)} {x : Fin 80} {y : Fin 25} {l : List Byte}
    (hl : lines[y.val]? = some l) (hc : l[x.val]? = none) : textCell lines x y = 32 := by
  simp only [textCell, List.getD_eq_getElem?_getD, hl, hc, Option.getD_some, Option.getD_none]

theorem textCell_of_no_line {lines : List (List Byte)} {x : Fin 80} {y : Fin 25} (hl : lines[y.val]? = none) :
    textCell lines x y = 32 := by
  simp only [textCell, List.getD_eq_getElem?_getD, hl, Option.getD_none, List.getElem?_nil]

/-! ### `LOAD` and the loader (70_reset_and_hazards R165, R170, 10_state R28) -/

/-- A load that is a move writes one cell, and leaves every other as it was. -/
theorem State.load_cell {s : State} (hw : s.grid.wf = true) (x : Fin 80) (y : Fin 25) (c : Byte)
    (x' : Fin 80) (y' : Fin 25) : (s.setGrid (s.grid.write (cellAddr x y) c)).cell x' y' =
      if x' = x ∧ y' = y then c else s.cell x' y' := by
  simp only [State.cell, State.setGrid_grid, Memory.read_write hw, cellAddr_inj, eq_comm]

theorem State.load_eq_none {s : State} (h : s.run = true ∨ s.inRun = true) (x : Fin 80) (y : Fin 25) (c : Byte) :
    s.load x y c = none := by
  rw [State.load, if_pos (by rwa [Bool.or_eq_true])]

theorem loadCells_eq_none {s : State} (h : s.run = true ∨ s.inRun = true) (lines : List (List Byte))
    {cells : List (Fin 80 × Fin 25)} (hc : cells ≠ []) : loadCells lines cells s = none := by
  obtain ⟨⟨x, y⟩, rest, rfl⟩ := List.exists_cons_of_ne_nil hc
  rw [loadCells, State.load_eq_none h, Option.bind_none]

/-- Loading the given cells changes only the grid: each of them gets the text's code, the others stay. -/
theorem loadCells_spec {s : State} (hr : s.run = false) (hn : s.inRun = false) (hw : s.grid.wf = true)
    (lines : List (List Byte)) (cells : List (Fin 80 × Fin 25)) :
    ∃ g : Memory, loadCells lines cells s = some (s.setGrid g) ∧ g.wf = true ∧
      ∀ x y, (s.setGrid g).cell x y = if (x, y) ∈ cells then textCell lines x y else s.cell x y := by
  induction cells generalizing s with
  | nil => exact ⟨s.grid, rfl, hw, fun x y => (if_neg List.not_mem_nil).symm⟩
  | cons p cells ih =>
    obtain ⟨x₀, y₀⟩ := p
    have hload : s.load x₀ y₀ (textCell lines x₀ y₀) = some _ := State.load_eq_some.mpr ⟨hr, hn, rfl⟩
    have hw' := Memory.wf_write hw (textCell lines x₀ y₀) (cellAddr_lt x₀ y₀)
    obtain ⟨g, hg, hgw, hcell⟩ :=
      ih (s := s.setGrid (s.grid.write (cellAddr x₀ y₀) (textCell lines x₀ y₀))) hr hn hw'
    refine ⟨g, ?_, hgw, fun x y => (hcell x y).trans ?_⟩
    · rw [loadCells, hload, Option.bind_some, hg]
      rfl
    · simp only [State.load_cell hw, List.mem_cons, Prod.mk.injEq]
      by_cases h : x = x₀ ∧ y = y₀
      · obtain ⟨rfl, rfl⟩ := h
        simp
      · simp only [if_neg h, or_iff_right h]

/-- The loader reaches every cell, so each holds the text's code. -/
theorem State.loadText_spec {s : State} (hr : s.run = false) (hn : s.inRun = false) (hw : s.grid.wf = true)
    (lines : List (List Byte)) : ∃ g : Memory, s.loadText lines = some (s.setGrid g) ∧ g.wf = true ∧
      ∀ x y, (s.setGrid g).cell x y = textCell lines x y := by
  obtain ⟨g, hg, hgw, hcell⟩ := loadCells_spec hr hn hw lines allCells
  exact ⟨g, hg, hgw, fun x y => (hcell x y).trans (if_pos (mem_allCells x y))⟩

theorem State.loadText_eq_none {s : State} (h : s.run = true ∨ s.inRun = true) (lines : List (List Byte)) :
    s.loadText lines = none :=
  loadCells_eq_none h lines (List.ne_nil_of_mem (mem_allCells 0 0))

/-- Settles O58: by induction on the cells loaded, each holds the text's code, and every cell of the grid is loaded;
a load that is no move stops the loader at its first cell. -/
theorem loaderMakesTheGridOfTheText : Obligations.LoaderMakesTheGridOfTheText := by
  unfold Obligations.LoaderMakesTheGridOfTheText
  refine fun s lines => ⟨fun hr hn hw => ?_, fun h => State.loadText_eq_none h lines⟩
  obtain ⟨g, hg, hgw, hcell⟩ := State.loadText_spec hr hn hw lines
  refine ⟨g, hg, hgw, fun x y => ⟨fun l c hl hc => ?_, fun l hl hc => ?_, fun hl => ?_⟩⟩
  · exact (hcell x y).trans (textCell_of_char hl hc)
  · exact (hcell x y).trans (textCell_of_short_line hl hc)
  · exact (hcell x y).trans (textCell_of_no_line hl)

end Sys2Proof.Machine

/-! Proofs of the family other. -/

namespace Sys2Proof.Machine

/-! ### What an operation leaves when it is done, and how else it can end -/

/-- The state that an instruction's operation leaves when it is done, before the advance of its step. -/
def doneState (i : Instr) (s : State) : State :=
  match i with
  | .exit => s.setHalted true
  | .blank => s
  | .swap => s.setStk (s.operand 1 :: s.operand 0 :: s.stk.drop 2)
  | .dup => s.setStk (s.operand 0 :: s.operand 0 :: s.stk.drop 1)
  | .pop => s.setStk (s.stk.drop 1)
  | .outc => (s.setStk (s.stk.drop 1)).emit (.char (s.operand 0))
  | .outi => (s.setStk (s.stk.drop 1)).emit (.int (s.operand 0))
  | .add => s.setStk (addWords (s.operand 1) (s.operand 0) :: s.stk.drop 2)
  | .sub => s.setStk (subWords (s.operand 1) (s.operand 0) :: s.stk.drop 2)
  | .mul => s.setStk (mulWords (s.operand 1) (s.operand 0) :: s.stk.drop 2)
  | .div => s.setStk (divWords (s.operand 1) (s.operand 0) :: s.stk.drop 2)
  | .mod => s.setStk (modWords (s.operand 1) (s.operand 0) :: s.stk.drop 2)
  | .not => s.setStk (truthValue (isZero (s.operand 0)) :: s.stk.drop 1)
  | .gt => s.setStk (truthValue (isGreater (s.operand 1) (s.operand 0)) :: s.stk.drop 2)
  | .right => s.setDir .right
  | .left => s.setDir .left
  | .up => s.setDir .up
  | .down => s.setDir .down
  | .rand => { s with
      dir := Dir.ofCode (drawDir s).1
      rnd := s.rnd.tail
      draws := if s.rnd.isEmpty then s.draws + 1 else s.draws }
  | .hif => (s.setStk (s.stk.drop 1)).setDir (if isZero (s.operand 0) then .right else .left)
  | .vif => (s.setStk (s.stk.drop 1)).setDir (if isZero (s.operand 0) then .down else .up)
  | .get => s.setStk (zextW (s.grid.read ((gridAddr (s.operand 1) (s.operand 0)).getD 0)) :: s.stk.drop 2)
  | .put => (s.setStk (s.stk.drop 3)).setGrid
      (s.grid.write ((gridAddr (s.operand 1) (s.operand 0)).getD 0) (lowByte (s.operand 2)))
  | .ini => ((s.setIntIn s.intIn.tail).setRequest none).setStk ((s.intIn.headD .absent).value :: s.stk)
  | .inc => ((s.setCharIn s.charIn.tail).setRequest none).setStk ((s.charIn.headD .absent).value :: s.stk)
  | .bridge => { s with pcx := s.advance.pcx, pcy := s.advance.pcy }
  | .quote => s.setStrmode (!s.strmode)
  | .pushd d => s.setStk (digitValue d :: s.stk)
  | .strpush c => s.setStk (zextW c :: s.stk)

/-- The two instructions with a bounds check (20_memory R35, R36). -/
def AccessesGrid (i : Instr) : Prop := i = .get ∨ i = .put

theorem State.advance_eq (s : State) : s.advance = { s with pcx := s.advance.pcx, pcy := s.advance.pcy } := by
  unfold State.advance
  split <;> rfl

theorem drawDir_snd_setDir (s : State) (d : Dir) : (drawDir s).2.setDir d = { s with
    dir := d
    rnd := s.rnd.tail
    draws := if s.rnd.isEmpty then s.draws + 1 else s.draws } := by
  rcases drawDir_cases s with ⟨hr, e⟩ | ⟨r, rest, hr, e⟩ <;> rw [e, hr] <;> rfl

/-- All that an operation can do in any state: it is done, the stack overflows, `GET` or `PUT` finds its coordinates
outside the grid, or an input step waits. -/
theorem operationEffect_cases (i : Instr) (s : State) :
    operationEffect i s = .done (doneState i s) ∨
    operationEffect i s = .raised .stackOverflow ∨
    (AccessesGrid i ∧ gridAddr (s.operand 1) (s.operand 0) = none ∧ operationEffect i s = .raised .outOfBounds) ∨
    (∃ k, operationEffect i s = .held k) := by
  cases i with
  | exit | blank | right | left | up | down | quote => exact .inl rfl
  | pop => exact .inl (by rw [operationEffect, pop_eq, doneState])
  | outc | outi => exact .inl (popToToken_eq s _)
  | hif | vif => exact .inl (by rw [operationEffect, popToDir_eq, doneState])
  | rand => exact .inl (by rw [operationEffect, drawDir_snd_setDir, doneState])
  | bridge => exact .inl (by rw [operationEffect, State.advance_eq, doneState])
  | swap => exact (swap_cases s).imp_right .inl
  | dup => exact (duplicate_cases s).imp_right .inl
  | add | sub | mul | div | mod => exact (binary_cases _ s).imp_right .inl
  | gt => rw [operationEffect]; exact (binary_cases _ s).imp_right .inl
  | not => rw [operationEffect]; exact (unary_cases _ s).imp_right .inl
  | pushd | strpush => exact (push_cases rfl).imp And.right fun h => .inl h.2
  | get =>
    rcases gridGet_cases s with ⟨a, ha, e⟩ | ⟨ha, e⟩
    · exact Or.imp_right .inl (by rw [doneState, ha]; exact e)
    · exact .inr (.inr (.inl ⟨.inl rfl, ha, e⟩))
  | put =>
    rcases gridPut_cases s with ⟨a, ha, e⟩ | ⟨ha, e⟩
    · rw [doneState, ha]; exact .inl e
    · exact .inr (.inr (.inl ⟨.inr rfl, ha, e⟩))
  | ini =>
    rcases inputInt_cases s with ⟨_, e⟩ | ⟨_, _, e⟩ | ⟨_, t, rest, hi, e⟩
    · exact .inr (.inl e)
    · exact .inr (.inr (.inr ⟨_, e⟩))
    · rw [doneState, hi]; exact .inl e
  | inc =>
    rcases inputChar_cases s with ⟨_, e⟩ | ⟨_, _, e⟩ | ⟨_, t, rest, hi, e⟩
    · exact .inr (.inl e)
    · exact .inr (.inr (.inr ⟨_, e⟩))
    · rw [doneState, hi]; exact .inl e

theorem operationEffect_done {i : Instr} {s u : State} (h : operationEffect i s = .done u) : u = doneState i s := by
  rcases operationEffect_cases i s with e | e | ⟨_, _, e⟩ | ⟨_, e⟩ <;> cases e.symm.trans h
  rfl

/-- A fault of an operation is an overflow, or that of a `GET` or `PUT` outside the grid. -/
theorem operationEffect_raised {i : Instr} {s : State} {k : FaultKind} (h : operationEffect i s = .raised k) :
    k = .stackOverflow ∨
    (k = .outOfBounds ∧ AccessesGrid i ∧ gridAddr (s.operand 1) (s.operand 0) = none) := by
  rcases operationEffect_cases i s with e | e | ⟨hi, ha, e⟩ | ⟨_, e⟩ <;> cases e.symm.trans h
  · exact .inl rfl
  · exact .inr ⟨rfl, hi, ha⟩

/-- `GET` and `PUT` check the coordinates first, whatever the rest of the state (60_exceptions R142). -/
theorem operationEffect_of_outside {i : Instr} {s : State} (hi : AccessesGrid i)
    (ha : gridAddr (s.operand 1) (s.operand 0) = none) : operationEffect i s = .raised .outOfBounds := by
  rcases hi with rfl | rfl
  · exact gridGet_of_none ha
  · exact gridPut_of_none ha

/-! ### The overflow (40_stack R70, 60_exceptions R143) -/

/-- The five instructions whose pushes need more room than their pops make. -/
def NeedsRoom (i : Instr) : Prop :=
  i = .dup ∨ i = .ini ∨ i = .inc ∨ (∃ d, i = .pushd d) ∨ ∃ c, i = .strpush c

theorem operationEffect_of_full {i : Instr} {s : State} (hw : s.stackWf = true) (hi : NeedsRoom i)
    (hf : s.full = true) : operationEffect i s = .raised .stackOverflow := by
  rcases hi with rfl | rfl | rfl | ⟨d, rfl⟩ | ⟨c, rfl⟩
  · exact duplicate_of_full hw hf
  · exact inputInt_of_full hf
  · exact inputChar_of_full hf
  · exact push_of_full _ hf
  · exact push_of_full _ hf

/-- Every other instruction pops at least what it pushes, or pushes nothing. -/
theorem operationEffect_ne_overflow {i : Instr} {s : State} (hw : s.stackWf = true) (hi : ¬ NeedsRoom i) :
    operationEffect i s ≠ .raised .stackOverflow := by
  cases i with
  | dup | ini | inc | pushd | strpush => simp [NeedsRoom] at hi
  | swap => rw [operationEffect, swap_eq hw]; nofun
  | add | sub | mul | div | mod | gt => rw [operationEffect, binary_eq _ hw]; nofun
  | not => rw [operationEffect, unary_eq _ hw]; nofun
  | outc | outi => rw [operationEffect, popToToken_eq]; nofun
  | hif | vif => rw [operationEffect, popToDir_eq]; nofun
  | get =>
    rcases gridGet_cases s with ⟨a, ha, _⟩ | ⟨_, e⟩
    · rw [operationEffect, gridGet_of_some hw ha]; nofun
    · rw [operationEffect, e]; nofun
  | put => rcases gridPut_cases s with ⟨_, _, e⟩ | ⟨_, e⟩ <;> rw [operationEffect, e] <;> nofun
  | exit | blank | pop | right | left | up | down | rand | bridge | quote => rw [operationEffect]; nofun

/-- On a stack with room none of the five overflows. -/
theorem operationEffect_ne_overflow_of_room {i : Instr} {s : State} (hw : s.stackWf = true) (hf : s.full = false) :
    operationEffect i s ≠ .raised .stackOverflow := by
  by_cases hi : NeedsRoom i
  · rcases hi with rfl | rfl | rfl | ⟨d, rfl⟩ | ⟨c, rfl⟩
    · rw [operationEffect, duplicate_eq hw hf]; nofun
    · rcases inputInt_cases s with ⟨ht, _⟩ | ⟨_, _, e⟩ | ⟨_, _, _, _, e⟩
      · rw [hf] at ht; cases ht
      · rw [operationEffect, e]; nofun
      · rw [operationEffect, e]; nofun
    · rcases inputChar_cases s with ⟨ht, _⟩ | ⟨_, _, e⟩ | ⟨_, _, _, _, e⟩
      · rw [hf] at ht; cases ht
      · rw [operationEffect, e]; nofun
      · rw [operationEffect, e]; nofun
    · rw [operationEffect, push_of_not_full _ hf]; nofun
    · rw [operationEffect, push_of_not_full _ hf]; nofun
  · exact operationEffect_ne_overflow hw hi

/-- On a legal stack the five overflow exactly when it is full, and no other instruction does. -/
theorem operationEffect_overflow_iff {i : Instr} {s : State} (hw : s.stackWf = true) :
    operationEffect i s = .raised .stackOverflow ↔ s.full = true ∧ NeedsRoom i := by
  refine ⟨fun h => ⟨?_, ?_⟩, fun h => operationEffect_of_full hw h.2 h.1⟩
  · exact Bool.of_not_eq_false fun hf => operationEffect_ne_overflow_of_room hw hf h
  · exact by_contra fun hi => operationEffect_ne_overflow hw hi h

/-! ### What an operation that is done leaves as it was -/

@[simp] theorem doneState_fkind (i : Instr) (s : State) : (doneState i s).fkind = s.fkind := by
  cases i <;> rfl

@[simp] theorem doneState_fchar (i : Instr) (s : State) : (doneState i s).fchar = s.fchar := by
  cases i <;> rfl

@[simp] theorem doneState_depth (i : Instr) (s : State) : (doneState i s).depth = s.depth := by
  cases i <;> rfl

@[simp] theorem doneState_run (i : Instr) (s : State) : (doneState i s).run = s.run := by
  cases i <;> rfl

@[simp] theorem doneState_begun (i : Instr) (s : State) : (doneState i s).begun = s.begun := by
  cases i <;> rfl

theorem doneState_strmode {i : Instr} (hi : i ≠ .quote) (s : State) : (doneState i s).strmode = s.strmode := by
  cases i with
  | quote => exact absurd rfl hi
  | _ => rfl

theorem doneState_halted {i : Instr} (hi : i ≠ .exit) (s : State) : (doneState i s).halted = s.halted := by
  cases i with
  | exit => exact absurd rfl hi
  | _ => rfl

theorem doneState_grid {i : Instr} (hi : i ≠ .put) (s : State) : (doneState i s).grid = s.grid := by
  cases i with
  | put => exact absurd rfl hi
  | _ => rfl

theorem doneState_out {i : Instr} (hc : i ≠ .outc) (hi : i ≠ .outi) (s : State) :
    (doneState i s).out = s.out := by
  cases i with
  | outc => exact absurd rfl hc
  | outi => exact absurd rfl hi
  | _ => rfl

theorem doneState_intIn {i : Instr} (hi : i ≠ .ini) (s : State) : (doneState i s).intIn = s.intIn := by
  cases i with
  | ini => exact absurd rfl hi
  | _ => rfl

theorem doneState_charIn {i : Instr} (hi : i ≠ .inc) (s : State) : (doneState i s).charIn = s.charIn := by
  cases i with
  | inc => exact absurd rfl hi
  | _ => rfl

theorem doneState_request {i : Instr} (hi : i ≠ .ini) (hc : i ≠ .inc) (s : State) :
    (doneState i s).request = s.request := by
  cases i with
  | ini => exact absurd rfl hi
  | inc => exact absurd rfl hc
  | _ => rfl

theorem doneState_rnd {i : Instr} (hi : i ≠ .rand) (s : State) : (doneState i s).rnd = s.rnd := by
  cases i with
  | rand => exact absurd rfl hi
  | _ => rfl

theorem doneState_draws {i : Instr} (hi : i ≠ .rand) (s : State) : (doneState i s).draws = s.draws := by
  cases i with
  | rand => exact absurd rfl hi
  | _ => rfl

theorem doneState_pos {i : Instr} (hi : i ≠ .bridge) (s : State) :
    (doneState i s).pcx = s.pcx ∧ (doneState i s).pcy = s.pcy := by
  cases i with
  | bridge => exact absurd rfl hi
  | _ => exact ⟨rfl, rfl⟩

/-- An input step that is done has no request any more. -/
theorem doneState_request_of_input (k : InKind) (s : State) : (doneState k.instr s).request = none := by
  cases k <;> rfl

/-- `SP` after an operation: what it pops less, but not below empty, and what it pushes more (40_stack R79). -/
theorem doneState_sp (i : Instr) (s : State) :
    (doneState i s).sp = s.sp - instrPops i + instrPushes i := by
  cases i <;> simp [doneState, State.sp, instrPops, instrPushes]

/-- The cells below the operands are still there after an operation (10_state R11). -/
theorem drop_instrPops_suffix_doneState (i : Instr) (s : State) : s.stk.drop (instrPops i) <:+ (doneState i s).stk := by
  cases i with
  | swap | dup => exact ⟨[_, _], rfl⟩
  | add | sub | mul | div | mod | not | gt | get | ini | inc | pushd | strpush => exact List.suffix_cons _ _
  | exit | blank | pop | outc | outi | right | left | up | down | rand | hif | vif | put | bridge | quote =>
    exact List.suffix_rfl

/-! ### All that an instruction's step can answer -/

/-- A step of an instruction completes, overflows, finds its coordinates outside the grid, or waits for input. -/
theorem exec_next_cases {i : Instr} {s t : State} (h : exec i s = .next t) :
    (operationEffect i s = .done (doneState i s) ∧ t = (doneState i s).advance) ∨
    (operationEffect i s = .raised .stackOverflow ∧ t = s.raise .stackOverflow (encodeCell i)) ∨
    (AccessesGrid i ∧ gridAddr (s.operand 1) (s.operand 0) = none ∧ t = s.raise .outOfBounds (encodeCell i)) ∨
    (∃ k, operationEffect i s = .held k ∧ t = s.setRequest (some k)) := by
  rw [exec_eq_finish] at h
  rcases operationEffect_cases i s with e | e | ⟨hi, ha, e⟩ | ⟨k, e⟩ <;>
    simp only [e, finish_done, finish_raised, finish_held, Host.Outcome.next.injEq] at h
  · exact .inl ⟨e, h.symm⟩
  · exact .inr (.inl ⟨e, h.symm⟩)
  · exact .inr (.inr (.inl ⟨hi, ha, h.symm⟩))
  · exact .inr (.inr (.inr ⟨k, e, h.symm⟩))

/-- An instruction that ends without a fault and finds its answer completes. -/
theorem exec_completed {i : Instr} {s t : State} (h : exec i s = .next t) (hf : t.fkind = none)
    (hi : i = .ini → s.intIn ≠ []) (hc : i = .inc → s.charIn ≠ []) : t = (doneState i s).advance := by
  rcases exec_next_cases h with ⟨_, e⟩ | ⟨_, rfl⟩ | ⟨_, _, rfl⟩ | ⟨k, e, _⟩
  · exact e
  · cases hf
  · cases hf
  · obtain ⟨hk, _, hint, hchar⟩ := operationEffect_held e
    cases k with
    | int => exact absurd (hint hk) (hi hk)
    | char => exact absurd (hchar hk) (hc hk)

theorem exec_answers_next (i : Instr) (s : State) : ∃ t, exec i s = .next t := by
  rw [exec_eq_finish]
  exact finish_answers_next _ _ _

theorem step_answers_next (s : State) : ∃ t, step s = .next t := by
  cases he : s.enabled with
  | false => exact ⟨s, step_of_not_enabled he⟩
  | true =>
    cases hr : s.request with
    | some k => rw [step_of_request he hr]; exact exec_answers_next _ _
    | none =>
      cases hd : decode s.strmode s.fetch with
      | operation i => rw [step_of_operation he hr hd]; exact exec_answers_next _ _
      | unknownInstruction c => exact ⟨_, step_of_unknown he hr hd⟩

/-- Settles O3: an instruction by the ways its step can end, a step by what it does. -/
theorem everyStepAnswersNext : Obligations.EveryStepAnswersNext := by
  unfold Obligations.EveryStepAnswersNext
  exact ⟨exec_answers_next, step_answers_next⟩

end Sys2Proof.Machine

namespace Sys2Proof

/-! ### Keys (30_encoding R52) -/

@[simp] theorem keyOf_getLsbD_eight (m : Bool) (c : Byte) : (keyOf m c).getLsbD 8 = m := by
  rw [keyOf, BitVec.getLsbD_append]
  simp

@[simp] theorem keyOf_setWidth_eight (m : Bool) (c : Byte) : (keyOf m c).setWidth 8 = c := by
  rw [keyOf, BitVec.setWidth_append]
  simp

/-- A key is its mode bit over its code. -/
theorem keyOf_getLsbD_setWidth (k : Key) : keyOf (k.getLsbD 8) (k.setWidth 8) = k := by
  apply BitVec.eq_of_getLsbD_eq
  intro j hj
  rw [keyOf, BitVec.getLsbD_append]
  by_cases h : j < 8
  · simp [h]
  · have h8 : j = 8 := by omega
    simp [h8]

@[simp] theorem decodeKey_keyOf (m : Bool) (c : Byte) : decodeKey (keyOf m c) = decode m c := by
  rw [decodeKey, keyOf_getLsbD_eight, keyOf_setWidth_eight]

/-- The table word of a key is classified as the key. -/
theorem decodeTableWord_toNat {k : Key} {i : Instr} (h : decodeKey k = .operation i) (n : Nat) :
    decodeTableWord n k.toNat = some i := by
  rw [decodeTableWord, if_pos k.isLt, BitVec.ofNat_toNat, BitVec.setWidth_eq, h]

/-! ### Decoding undoes encoding, and the other way round -/

theorem decode_encodeCell (i : Instr) : Laws.DecodeEncode.Statement i := by
  cases i with
  | exit => exact Laws.DecodeEncode.exit
  | blank => exact Laws.DecodeEncode.blank
  | swap => exact Laws.DecodeEncode.swap
  | dup => exact Laws.DecodeEncode.dup
  | pop => exact Laws.DecodeEncode.pop
  | outc => exact Laws.DecodeEncode.outc
  | outi => exact Laws.DecodeEncode.outi
  | add => exact Laws.DecodeEncode.add
  | sub => exact Laws.DecodeEncode.sub
  | mul => exact Laws.DecodeEncode.mul
  | div => exact Laws.DecodeEncode.div
  | mod => exact Laws.DecodeEncode.mod
  | not => exact Laws.DecodeEncode.not
  | gt => exact Laws.DecodeEncode.gt
  | right => exact Laws.DecodeEncode.right
  | left => exact Laws.DecodeEncode.left
  | up => exact Laws.DecodeEncode.up
  | down => exact Laws.DecodeEncode.down
  | rand => exact Laws.DecodeEncode.rand
  | hif => exact Laws.DecodeEncode.hif
  | vif => exact Laws.DecodeEncode.vif
  | get => exact Laws.DecodeEncode.get
  | put => exact Laws.DecodeEncode.put
  | ini => exact Laws.DecodeEncode.ini
  | inc => exact Laws.DecodeEncode.inc
  | bridge => exact Laws.DecodeEncode.bridge
  | quote => exact Laws.DecodeEncode.quote
  | pushd d => exact Laws.DecodeEncode.pushd d
  | strpush c => exact Laws.DecodeEncode.strpush c

theorem decodeKey_encode {i : Instr} {m : Bool} (hw : i.wellFormed = true) (hm : admitsMode i m = true) :
    decodeKey (encode m i) = .operation i := by
  rw [encode, decodeKey_keyOf]
  exact decode_encodeCell i hw m hm

/-- String-mode data admits `STRMODE` = 1, every other instruction `STRMODE` = 0. -/
theorem exists_admitsMode (i : Instr) : ∃ m, admitsMode i m = true := by
  cases i with
  | strpush c => exact ⟨true, rfl⟩
  | _ => exact ⟨false, rfl⟩

/-- Settles O8: the key of a mode and a code is classified as that code under that mode, and each instruction's code is
classified as it. -/
theorem decodeInvertsEncode : Obligations.DecodeInvertsEncode := by
  unfold Obligations.DecodeInvertsEncode
  refine fun i hw => ⟨exists_admitsMode i, fun m hm => ?_⟩
  have hk := decodeKey_encode hw hm
  exact ⟨hk, decodeTableWord_toNat hk 16⟩

theorem mem_operationTable_wellFormed : ∀ p ∈ operationTable,
    p.2.wellFormed = true ∧ admitsMode p.2 false = true ∧ (admitsMode p.2 true = true ↔ p.1 = 0x22) := by decide

/-- What classification gives an operation is a well-formed instruction that admits the mode (30_encoding R52). -/
theorem wellFormed_of_decode {m : Bool} {c : Byte} {i : Instr} (h : decode m c = .operation i) :
    i.wellFormed = true ∧ admitsMode i m = true := by
  unfold decode at h
  split at h
  · next hs =>
    obtain ⟨rfl, hc⟩ := hs
    cases h
    exact ⟨decide_eq_true hc, rfl⟩
  · next hs =>
    split at h
    · next hd =>
      cases h
      have hdigit : (c.setWidth 4).toNat ≤ 9 := by bv_omega
      have hm : m ≠ true := fun hm => hs ⟨hm, by rintro rfl; exact absurd hd (by decide)⟩
      exact ⟨decide_eq_true hdigit, by rw [Bool.eq_false_of_not_eq_true hm]; rfl⟩
    · split at h
      · next hl =>
        cases h
        obtain ⟨hwf, hfalse, htrue⟩ := mem_operationTable_wellFormed _ (mem_operationTable_of_lookup hl)
        cases m with
        | false => exact ⟨hwf, hfalse⟩
        | true => exact ⟨hwf, htrue.mpr (by simpa using hs)⟩
      · cases h

/-- Settles O9: the code of a decoded instruction is the one classified, under the mode bit of the key. -/
theorem encodeInvertsDecode : Obligations.EncodeInvertsDecode := by
  unfold Obligations.EncodeInvertsDecode
  intro k i h
  obtain ⟨hw, hm⟩ := wellFormed_of_decode h
  exact ⟨hw, hm, by rw [encode, encodeCell_of_decode h, keyOf_getLsbD_setWidth]⟩

end Sys2Proof

namespace Sys2Proof

/-! ### The opcode table: every row is right, no two rows overlap, every meaning has a row (30_encoding R58) -/

/-- Two rows that no key satisfies both of: their matches differ in a bit that both masks look at. -/
def OpcodeRow.Disjoint (r r' : OpcodeRow) : Prop := r.mask &&& r'.mask &&& (r.matchBits ^^^ r'.matchBits) ≠ 0

theorem opcodeRows_pairwise_disjoint : opcodeRows.Pairwise OpcodeRow.Disjoint := by
  unfold OpcodeRow.Disjoint
  decide

theorem OpcodeRow.selects_iff {r : OpcodeRow} {k : Key} : r.selects k = true ↔ k &&& r.mask = r.matchBits :=
  beq_iff_eq

theorem OpcodeRow.Disjoint.not_both {r r' : OpcodeRow} (h : r.Disjoint r') {k : Key} (hr : r.selects k = true) :
    r'.selects k ≠ true := by
  intro hr'
  rw [OpcodeRow.selects_iff] at hr hr'
  apply h
  rw [← hr, ← hr']
  ext j hj
  simp only [BitVec.getElem_and, BitVec.getElem_xor, BitVec.ofNat_eq_ofNat, BitVec.getElem_zero]
  cases k[j] <;> cases r.mask[j] <;> cases r'.mask[j] <;> rfl

/-- A row that selects a key is the only one. -/
theorem filter_selects_of_mem {k : Key} {r : OpcodeRow} (hr : r ∈ opcodeRows) (hs : r.selects k = true) :
    (opcodeRows.filter fun r => r.selects k) = [r] := by
  have hmem : r ∈ opcodeRows.filter fun r => r.selects k := List.mem_filter.mpr ⟨hr, hs⟩
  have hall : ∀ r' ∈ opcodeRows.filter fun r => r.selects k, r'.selects k = true := fun r' h => (List.mem_filter.mp h).2
  have hpair := opcodeRows_pairwise_disjoint.filter fun r => r.selects k
  match hl : opcodeRows.filter fun r => r.selects k with
  | [] => rw [hl] at hmem; cases hmem
  | [r'] => rw [hl, List.mem_singleton] at hmem; rw [hl, hmem]
  | r₁ :: r₂ :: rest =>
    rw [hl] at hall hpair
    have hdis := (List.pairwise_cons.mp hpair).1 r₂ List.mem_cons_self
    exact absurd (hall r₂ (by simp)) (hdis.not_both (hall r₁ (by simp)))

/-! #### Every row is right -/

theorem mem_exactRows : ∀ r ∈ operationRows ++ digitRows,
    r.mask = 0x1FF ∧ decodeKey r.matchBits = .operation (r.instr (r.matchBits.setWidth 8)) := by decide

theorem mem_stringRows : ∀ r ∈ stringRows,
    r.mask[8] = true ∧ r.matchBits[8] = true ∧ r.selects 0x122 = false := by decide

theorem instr_of_mem_stringRows : ∀ r ∈ stringRows, r.instr = .strpush := by simp [stringRows]

theorem decodeKey_of_selects_exactRow {r : OpcodeRow} (hr : r ∈ operationRows ++ digitRows) {k : Key}
    (hs : r.selects k = true) : decodeKey k = .operation (r.instr (k.setWidth 8)) := by
  obtain ⟨hmask, hd⟩ := mem_exactRows r hr
  have hall : (0x1FF : Key) = BitVec.allOnes 9 := rfl
  rw [OpcodeRow.selects_iff, hmask, hall, BitVec.and_allOnes] at hs
  rw [hs, hd]

theorem decodeKey_of_selects_quoteRow {r : OpcodeRow} (hr : r ∈ quoteRows) {k : Key} (hs : r.selects k = true) :
    decodeKey k = .operation (r.instr (k.setWidth 8)) := by
  rw [quoteRows, List.mem_singleton] at hr
  subst hr
  have hc : k.setWidth 8 = 0x22 := by
    have h := congrArg (BitVec.setWidth 8) (OpcodeRow.selects_iff.mp hs)
    rwa [BitVec.setWidth_and, show BitVec.setWidth 8 (0x0FF : Key) = BitVec.allOnes 8 from rfl,
      BitVec.and_allOnes] at h
  rw [decodeKey, hc]
  exact Laws.DecodeEncode.quote rfl _ rfl

theorem decodeKey_of_selects_stringRow {r : OpcodeRow} (hr : r ∈ stringRows) {k : Key} (hs : r.selects k = true) :
    decodeKey k = .operation (r.instr (k.setWidth 8)) := by
  obtain ⟨hmask, hmatch, hquote⟩ := mem_stringRows r hr
  have hbit : k.getLsbD 8 = true := by
    have h := congrArg (fun b => BitVec.getLsbD b 8) (OpcodeRow.selects_iff.mp hs)
    simpa [hmask, hmatch] using h
  have hc : k.setWidth 8 ≠ 0x22 := by
    intro h
    have hk : k = 0x122 := by rw [← keyOf_getLsbD_setWidth k, hbit, h]; rfl
    rw [hk, hquote] at hs
    cases hs
  rw [decodeKey, hbit, instr_of_mem_stringRows r hr]
  exact Laws.DecodeEncode.strpush _ (decide_eq_true hc) true rfl

theorem decodeKey_of_selects {r : OpcodeRow} (hr : r ∈ opcodeRows) {k : Key} (hs : r.selects k = true) :
    decodeKey k = .operation (r.instr (k.setWidth 8)) := by
  simp only [opcodeRows, List.mem_append] at hr
  rcases hr with ((hr | hr) | hr) | hr
  · exact decodeKey_of_selects_exactRow (List.mem_append_left _ hr) hs
  · exact decodeKey_of_selects_quoteRow hr hs
  · exact decodeKey_of_selects_exactRow (List.mem_append_right _ hr) hs
  · exact decodeKey_of_selects_stringRow hr hs

/-! #### Every meaning has a row -/

theorem exists_stringRow : ∀ c : Byte, c ≠ 0x22 → ∃ r ∈ stringRows, r.selects (keyOf true c) = true := by decide

theorem exists_row_of_encode {i : Instr} {m : Bool} (hw : i.wellFormed = true) (hm : admitsMode i m = true) :
    ∃ r ∈ opcodeRows, r.selects (encode m i) = true := by
  cases i with
  | strpush c =>
    obtain rfl : m = true := hm
    obtain ⟨r, hr, hs⟩ := exists_stringRow c (of_decide_eq_true hw)
    exact ⟨r, List.mem_append_right _ hr, hs⟩
  | pushd d => revert d m; decide
  | _ => revert m; decide

theorem filter_selects_of_operation {k : Key} {i : Instr} (h : decodeKey k = .operation i) :
    (opcodeRows.filter fun r => r.selects k).map (fun r => r.instr (k.setWidth 8)) = [i] := by
  obtain ⟨hw, hm, hk⟩ := encodeInvertsDecode k i h
  obtain ⟨r, hr, hs⟩ := exists_row_of_encode hw hm
  rw [hk] at hs
  rw [filter_selects_of_mem hr hs, List.map_singleton]
  exact congrArg (fun i => [i]) (Classified.operation.inj ((decodeKey_of_selects hr hs).symm.trans h))

/-- In string mode every code is data or the quote (30_encoding R53). -/
theorem decode_true_ne_unknown (c c' : Byte) : decode true c ≠ .unknownInstruction c' := by
  by_cases hc : c = 0x22
  · rw [hc]; exact fun h => nomatch h.symm.trans (Laws.DecodeEncode.quote rfl true rfl)
  · exact fun h => nomatch h.symm.trans (Laws.DecodeEncode.strpush c (decide_eq_true hc) true rfl)

/-- A code that is given no operation stands outside string mode, and is the one named. -/
theorem of_decode_unknown {m : Bool} {c c' : Byte} (h : decode m c = .unknownInstruction c') :
    m = false ∧ c' = c := by
  cases m with
  | true => exact absurd h (decode_true_ne_unknown c c')
  | false =>
    refine ⟨rfl, ?_⟩
    simp only [decode, Bool.false_eq_true, false_and, if_false] at h
    split at h
    · cases h
    · split at h
      · cases h
      · exact (Classified.unknownInstruction.inj h).symm

theorem filter_selects_of_unknown {k : Key} {c : Byte} (h : decodeKey k = .unknownInstruction c) :
    (opcodeRows.filter fun r => r.selects k) = [] := by
  rw [List.filter_eq_nil_iff]
  intro r hr hs
  cases h.symm.trans (decodeKey_of_selects hr hs)

/-- Settles O10: a key with a meaning has a row, no second one, and the row says what the decoder says; a key without
one has no row. -/
theorem opcodeTableRowsAgreeWithDecode : Obligations.OpcodeTableRowsAgreeWithDecode := by
  unfold Obligations.OpcodeTableRowsAgreeWithDecode
  refine ⟨rfl, fun k => ⟨fun i => filter_selects_of_operation, fun c h => ⟨?_, (of_decode_unknown h).1⟩⟩⟩
  rw [filter_selects_of_unknown h, List.length_nil]

/-! ### The codes without an operation (30_encoding R56) -/

/-- The list of 30_encoding R56, read off the table for each of the 256 codes. -/
theorem decode_unknown_iff_listed : ∀ c : Byte, decode false c = .unknownInstruction c ↔
    (c.toNat ≤ 0x1F ∨ (0x27 ≤ c.toNat ∧ c.toNat ≤ 0x29) ∨ c.toNat = 0x3B ∨ c.toNat = 0x3D ∨
      (0x41 ≤ c.toNat ∧ c.toNat ≤ 0x5B) ∨ c.toNat = 0x5D ∨ (0x61 ≤ c.toNat ∧ c.toNat ≤ 0x66) ∨
      (0x68 ≤ c.toNat ∧ c.toNat ≤ 0x6F) ∨ (0x71 ≤ c.toNat ∧ c.toNat ≤ 0x75) ∨
      (0x77 ≤ c.toNat ∧ c.toNat ≤ 0x7B) ∨ c.toNat = 0x7D ∨ 0x7F ≤ c.toNat) := by decide

theorem unknown_codes_length : ((List.range 256).filter fun n =>
    decide (decode false (BitVec.ofNat 8 n) = .unknownInstruction (BitVec.ofNat 8 n))).length = 219 := by rfl

end Sys2Proof

namespace Sys2Proof.Machine

/-- An enabled step on a code without an operation writes the fault record and the record that a run has begun. -/
theorem step_of_fetched_unknown {s : State} {c : Byte} (he : s.enabled = true) (hr : s.request = none)
    (hd : decode s.strmode s.fetch = .unknownInstruction c) :
    step s = .next ((s.setBegun true).raise .unknownInstruction s.fetch) := by
  rw [step_of_unknown he hr hd, (of_decode_unknown hd).2]

/-- A core with a fault record takes no step. -/
theorem step_of_faulted {s : State} (h : s.fkind ≠ none) : step s = .next s :=
  step_of_not_enabled (Bool.eq_false_of_not_eq_true fun he => h (State.enabled_iff.mp he).2.1)

/-- Settles O11: the list by the table; the step by what it does on such a code, which leaves a fault record. -/
theorem illegalCodesAreTheListed : Obligations.IllegalCodesAreTheListed := by
  unfold Obligations.IllegalCodesAreTheListed
  refine ⟨decode_unknown_iff_listed, unknown_codes_length, fun s hh hf hr hq hm hd => ?_, decode_true_ne_unknown⟩
  rw [← hm] at hd
  refine ⟨_, step_of_fetched_unknown (State.enabled_iff.mpr ⟨hh, hf, hr⟩) hq hd, rfl, rfl, rfl, rfl, ?_⟩
  exact step_of_faulted (Option.some_ne_none _)

/-- Settles O6: only outside string mode a code has no operation, and there the step writes the record alone. -/
theorem unknownCodeRaisesUnknownInstruction : Obligations.UnknownCodeRaisesUnknownInstruction := by
  unfold Obligations.UnknownCodeRaisesUnknownInstruction
  refine ⟨fun s c hh hf hr hq hd => ⟨(of_decode_unknown hd).1, ?_⟩, decode_true_ne_unknown⟩
  exact step_of_fetched_unknown (State.enabled_iff.mpr ⟨hh, hf, hr⟩) hq hd

/-- Settles O12: each code is that of its instruction; 0x41 is in the list of those without one. -/
theorem writtenOutCodesDecode : Obligations.WrittenOutCodesDecode := by
  unfold Obligations.WrittenOutCodesDecode
  refine ⟨Laws.DecodeEncode.swap rfl false rfl, Laws.DecodeEncode.div rfl false rfl,
    Laws.DecodeEncode.gt rfl false rfl, Laws.DecodeEncode.down rfl false rfl, Laws.DecodeEncode.vif rfl false rfl,
    Laws.DecodeEncode.get rfl false rfl, Laws.DecodeEncode.inc rfl false rfl, Laws.DecodeEncode.pushd 5 rfl false rfl,
    Laws.DecodeEncode.strpush 0x35 rfl true rfl, Laws.DecodeEncode.quote rfl true rfl,
    (decode_unknown_iff_listed 0x41).mpr (by decide), ?_⟩
  exact decodeTableWord_toNat (decodeKey_encode (i := .strpush 0x35) (m := true) rfl rfl) 16

end Sys2Proof.Machine

namespace Sys2Proof.Machine

/-! ### Every step keeps the invariant -/

/-- `GET` and `PUT` are given outside string mode only, each with its own code. -/
theorem of_decode_accessesGrid {m : Bool} {c : Byte} {i : Instr} (h : decode m c = .operation i)
    (hi : AccessesGrid i) : m = false ∧ (c = 0x67 ∨ c = 0x70) := by
  have hm := (wellFormed_of_decode h).2
  have hc := encodeCell_of_decode h
  rcases hi with rfl | rfl
  · exact ⟨by simpa [admitsMode] using hm, .inl hc.symm⟩
  · exact ⟨by simpa [admitsMode] using hm, .inr hc.symm⟩

/-- The input instructions are given outside string mode only. -/
theorem strmode_of_decode_input {m : Bool} {c : Byte} {k : InKind} (h : decode m c = .operation k.instr) :
    m = false := by
  have hm := (wellFormed_of_decode h).2
  cases k <;> simpa [InKind.instr, admitsMode] using hm

theorem InKind.instr_not_accessesGrid (k : InKind) : ¬ AccessesGrid k.instr := by
  cases k <;> simp [InKind.instr, AccessesGrid]

/-- An operation that is done keeps the canonical form of the grid. -/
theorem doneState_grid_wf {i : Instr} {s : State} (hg : s.grid.wf = true)
    (h : operationEffect i s = .done (doneState i s)) : (doneState i s).grid.wf = true := by
  by_cases hi : i = .put
  · subst hi; exact gridPut_keeps_grid_wf hg h
  · rwa [doneState_grid hi]

/-- An instruction that need not find room leaves at most as many cells as there were, or two. -/
theorem sp_le_of_not_needsRoom {i : Instr} (hi : ¬ NeedsRoom i) (n : Nat) :
    n - instrPops i + instrPushes i ≤ max n 2 := by
  cases i with
  | dup | ini | inc | pushd | strpush => simp [NeedsRoom] at hi
  | _ => simp only [instrPops, instrPushes]; omega

/-- The five need one cell more at most, where there are two cells in all. -/
theorem sp_le_of_needsRoom {i : Instr} (hi : NeedsRoom i) (n : Nat) :
    n - instrPops i + instrPushes i ≤ max (n + 1) 2 := by
  rcases hi with rfl | rfl | rfl | ⟨d, rfl⟩ | ⟨c, rfl⟩ <;> simp only [instrPops, instrPushes] <;> omega

/-- An operation that is done leaves a legal stack. -/
theorem doneState_stackWf {i : Instr} {s : State} (hw : s.stackWf = true)
    (h : operationEffect i s = .done (doneState i s)) : (doneState i s).stackWf = true := by
  rw [State.stackWf_iff]
  intro n hn
  rw [doneState_depth] at hn
  obtain ⟨h2, hsp⟩ := (State.stackWf_iff s).mp hw n hn
  refine ⟨h2, ?_⟩
  rw [doneState_sp]
  by_cases hi : NeedsRoom i
  · have hf : s.full = false := by
      refine Bool.eq_false_of_not_eq_true fun hf => ?_
      cases h.symm.trans (operationEffect_of_full hw hi hf)
    have hne := (State.full_eq_false_iff s).mp hf n hn
    have := sp_le_of_needsRoom hi s.sp
    omega
  · have := sp_le_of_not_needsRoom hi s.sp
    omega

theorem State.faultRecordWf_of_none {s : State} (h : s.fkind = none) : s.faultRecordWf = true ↔ s.fchar = 0 := by
  simp only [State.faultRecordWf, h, decide_eq_true_eq]

@[simp] theorem State.raise_operand (s : State) (k : FaultKind) (c : Byte) (n : Nat) :
    (s.raise k c).operand n = s.operand n := rfl

theorem State.requestWf_of_none {s : State} (h : s.request = none) : s.requestWf = true := by
  rw [State.requestWf, h, Option.isNone_none, Bool.true_or]

/-- A fault of a core with no input step at hand keeps the invariant when its record is true. -/
theorem State.raise_inv {s : State} {k : FaultKind} {c : Byte} (hs : s.Inv) (hq : s.request = none)
    (hrec : (s.raise k c).faultRecordWf = true) : (s.raise k c).Inv := by
  obtain ⟨hg, hw, _, _⟩ := hs
  exact ⟨hg, hw, hrec, State.requestWf_of_none hq⟩

/-- A core in which an instruction's step is taken: enabled, and given the instruction by the input step at hand or by
its fetch. -/
structure AboutToRun (i : Instr) (s : State) : Prop where
  inv : s.Inv
  halted : s.halted = false
  fkind : s.fkind = none
  begun : s.begun = true
  source : (∃ k, s.request = some k ∧ i = k.instr) ∨ (s.request = none ∧ decode s.strmode s.fetch = .operation i)

/-- A fault is raised by a fetched instruction: an input step at hand has found room. -/
theorem AboutToRun.fetched_of_raised {i : Instr} {s : State} {k : FaultKind} (h : AboutToRun i s)
    (hr : operationEffect i s = .raised k) : s.request = none ∧ decode s.strmode s.fetch = .operation i := by
  obtain ⟨_, hw, _, hq⟩ := h.inv
  rcases h.source with ⟨j, hj, rfl⟩ | hfetched
  · obtain ⟨_, _, _, _, hroom⟩ := State.requestWf_of_some hq hj
    rcases operationEffect_raised hr with rfl | ⟨_, hgrid, _⟩
    · exact absurd hr (operationEffect_ne_overflow_of_room hw hroom)
    · exact absurd hgrid j.instr_not_accessesGrid
  · exact hfetched

/-- A completed step leaves no input step at hand. -/
theorem AboutToRun.request_done {i : Instr} {s : State} (h : AboutToRun i s) :
    (doneState i s).request = none := by
  rcases h.source with ⟨k, _, rfl⟩ | ⟨hq, _⟩
  · exact doneState_request_of_input k s
  · by_cases hk : ∃ k : InKind, i = k.instr
    · obtain ⟨k, rfl⟩ := hk
      exact doneState_request_of_input k s
    · rw [doneState_request (fun e => hk ⟨.int, e⟩) (fun e => hk ⟨.char, e⟩), hq]

theorem AboutToRun.done_keeps_inv {i : Instr} {s : State} (h : AboutToRun i s)
    (hd : operationEffect i s = .done (doneState i s)) : (doneState i s).advance.Inv := by
  obtain ⟨hg, hw, hrec, _⟩ := h.inv
  have hrec' : (doneState i s).advance.faultRecordWf = true := by
    rw [State.faultRecordWf_of_none (by simp [h.fkind])]
    simpa using (State.faultRecordWf_of_none h.fkind).mp hrec
  have hq' : (doneState i s).advance.request = none := by rw [State.advance_request, h.request_done]
  have hg' := doneState_grid_wf hg hd
  have hw' := doneState_stackWf hw hd
  refine ⟨?_, ?_, hrec', State.requestWf_of_none hq'⟩
  · rwa [State.advance_grid]
  · rwa [State.stackWf, State.advance_depth, State.advance_sp]

theorem AboutToRun.overflow_keeps_inv {i : Instr} {s : State} (h : AboutToRun i s)
    (hr : operationEffect i s = .raised .stackOverflow) : (s.raise .stackOverflow (encodeCell i)).Inv := by
  obtain ⟨hq, hd⟩ := h.fetched_of_raised hr
  obtain ⟨hf, _⟩ := (operationEffect_overflow_iff h.inv.2.1).mp hr
  refine State.raise_inv h.inv hq ?_
  simp [State.faultRecordWf, h.halted, encodeCell_of_decode hd, hf]

theorem AboutToRun.outside_keeps_inv {i : Instr} {s : State} (h : AboutToRun i s) (hi : AccessesGrid i)
    (ha : gridAddr (s.operand 1) (s.operand 0) = none) : (s.raise .outOfBounds (encodeCell i)).Inv := by
  obtain ⟨hq, hd⟩ := h.fetched_of_raised (operationEffect_of_outside hi ha)
  obtain ⟨hm, hc⟩ := of_decode_accessesGrid hd hi
  refine State.raise_inv h.inv hq ?_
  rw [encodeCell_of_decode hd]
  rcases hc with e | e <;> simp [State.faultRecordWf, h.halted, hm, ha, e]

/-- A step that waits was given an input instruction, outside string mode, and found room. -/
theorem AboutToRun.held_keeps_inv {i : Instr} {s : State} {k : InKind} (h : AboutToRun i s)
    (hk : operationEffect i s = .held k) : (s.setRequest (some k)).Inv := by
  obtain ⟨hg, hw, hrec, hq⟩ := h.inv
  obtain ⟨rfl, hf, _, _⟩ := operationEffect_held hk
  have hm : s.strmode = false := by
    rcases h.source with ⟨j, hj, _⟩ | ⟨_, hd⟩
    · obtain ⟨_, _, _, hm, _⟩ := State.requestWf_of_some hq hj
      exact hm
    · exact strmode_of_decode_input hd
  refine ⟨hg, hw, hrec, ?_⟩
  have hf' : (s.setRequest (some k)).full = false := hf
  simp [State.requestWf, State.inRun, h.halted, h.fkind, h.begun, hm, hf']

theorem AboutToRun.exec_keeps_inv {i : Instr} {s t : State} (h : AboutToRun i s) (he : exec i s = .next t) :
    t.Inv := by
  rcases exec_next_cases he with ⟨hd, rfl⟩ | ⟨hr, rfl⟩ | ⟨hi, ha, rfl⟩ | ⟨k, hk, rfl⟩
  · exact h.done_keeps_inv hd
  · exact h.overflow_keeps_inv hr
  · exact h.outside_keeps_inv hi ha
  · exact h.held_keeps_inv hk

/-- The record that a run has begun does no harm to the invariant of an enabled core. -/
theorem State.setBegun_inv {s : State} (hs : s.Inv) : (s.setBegun true).Inv := by
  obtain ⟨hg, hw, hrec, hq⟩ := hs
  refine ⟨hg, hw, hrec, ?_⟩
  cases hk : s.request with
  | none => exact State.requestWf_of_none hk
  | some k =>
    have hb : s.setBegun true = s := by
      obtain ⟨hb, _⟩ := State.requestWf_of_some hq hk
      rw [← hb]
      rfl
    rwa [hb]

theorem aboutToRun_of_step {i : Instr} {s : State} (hs : s.Inv) (he : s.enabled = true)
    (hsource : (∃ k, s.request = some k ∧ i = k.instr) ∨
      (s.request = none ∧ decode s.strmode s.fetch = .operation i)) : AboutToRun i (s.setBegun true) := by
  obtain ⟨hh, hf, _⟩ := State.enabled_iff.mp he
  exact ⟨State.setBegun_inv hs, hh, hf, rfl, hsource⟩

/-- The record of UnknownInstruction is true of the cell it was fetched from. -/
theorem unknown_keeps_inv {s : State} (hs : s.Inv) (hh : s.halted = false) (hq : s.request = none)
    (hd : decode s.strmode s.fetch = .unknownInstruction s.fetch) :
    (s.raise .unknownInstruction s.fetch).Inv := by
  refine State.raise_inv hs hq ?_
  simp [State.faultRecordWf, hh, hd]

/-- Settles O2: the step is none, or runs the input step at hand or the fetched instruction, each of whose four ways to
end keeps the invariant, or raises UnknownInstruction. -/
theorem stepKeepsInv : Obligations.StepKeepsInv := by
  unfold Obligations.StepKeepsInv
  intro s t hs h
  rcases step_cases h with ⟨_, rfl⟩ | ⟨he, k, hk, hx⟩ | ⟨he, hq, i, hd, hx⟩ | ⟨he, hq, c, hd, rfl⟩
  · exact hs
  · exact (aboutToRun_of_step hs he (.inl ⟨k, hk, rfl⟩)).exec_keeps_inv hx
  · exact (aboutToRun_of_step hs he (.inr ⟨hq, hd⟩)).exec_keeps_inv hx
  · obtain ⟨hh, _, _⟩ := State.enabled_iff.mp he
    obtain ⟨_, rfl⟩ := of_decode_unknown hd
    exact unknown_keeps_inv (State.setBegun_inv hs) hh hq hd

end Sys2Proof.Machine

namespace Sys2Proof.Machine

/-! ### Where a completed instruction leaves the position (42_pc_control R100, R109, R110) -/

/-- Every instruction but `BRIDGE` moves the position by the advance of its step alone. -/
theorem doneState_advance_pos {i : Instr} (hi : i ≠ .bridge) (s : State) :
    (doneState i s).advance.pcx = (s.setDir (doneState i s).dir).advance.pcx ∧
    (doneState i s).advance.pcy = (s.setDir (doneState i s).dir).advance.pcy := by
  obtain ⟨hx, hy⟩ := doneState_pos hi s
  exact State.advance_pos_congr hx hy rfl

/-- `BRIDGE`, done, is an advance. -/
theorem doneState_bridge (s : State) : doneState .bridge s = s.advance := by
  rw [State.advance_eq, doneState]

/-- Settles O36: the state a completed instruction leaves before its advance stands where it began, or one advance on
for `BRIDGE`. -/
theorem positionMovesByAdvanceOnly : Obligations.PositionMovesByAdvanceOnly := by
  unfold Obligations.PositionMovesByAdvanceOnly
  intro i s t h hf hint hchar
  have ht := exec_completed h hf hint hchar
  subst ht
  refine ⟨fun hi => ?_, ?_⟩
  · rw [State.advance_dir]
    exact doneState_advance_pos hi s
  · rintro rfl
    rw [doneState_bridge]
    exact ⟨rfl, rfl⟩

/-! ### Faults over all instructions (60_exceptions R142 to R144) -/

/-- What an instruction's step makes of the fault record: it writes it exactly when its operation raises. -/
theorem exec_fkind_iff {i : Instr} {s t : State} (hs : s.fkind = none) (h : exec i s = .next t) (k : FaultKind) :
    t.fkind = some k ↔ operationEffect i s = .raised k := by
  rcases exec_cases h with ⟨u, e, rfl⟩ | ⟨j, e, rfl⟩ | ⟨j, e, rfl⟩
  · simp [e, operationEffect_done e, hs]
  · simp [e]
  · simp [e, hs]

/-- Settles O50: the record is written when the operation raises, and on a legal stack the five that need room overflow
exactly when it is full. -/
theorem stackOverflowExactlyOnAFullStack : Obligations.StackOverflowExactlyOnAFullStack := by
  unfold Obligations.StackOverflowExactlyOnAFullStack
  exact fun i s t hw hs h => (exec_fkind_iff hs h .stackOverflow).trans (operationEffect_overflow_iff hw)

/-- A raised fault leaves the whole state but its record. -/
theorem eq_raise_of_fkind {i : Instr} {s t : State} {k : FaultKind} (hs : s.fkind = none) (h : exec i s = .next t)
    (hk : t.fkind = some k) : t = s.raise k (encodeCell i) := by
  have hr := (exec_fkind_iff hs h k).mp hk
  rw [exec_eq_finish, hr, finish_raised, Host.Outcome.next.injEq] at h
  exact h.symm

theorem exec_fchar_of_no_fault {i : Instr} {s t : State} (h : exec i s = .next t) (hf : t.fkind = none) :
    t.fchar = s.fchar := by
  rcases exec_next_cases h with ⟨_, rfl⟩ | ⟨_, rfl⟩ | ⟨_, _, rfl⟩ | ⟨k, _, rfl⟩
  · rw [State.advance_fchar, doneState_fchar]
  · cases hf
  · cases hf
  · rfl

/-- Settles O51: a fault is the old state with the record written; without one the record was not touched. -/
theorem faultsArePrecise : Obligations.FaultsArePrecise := by
  unfold Obligations.FaultsArePrecise
  exact fun i s t hs h => ⟨fun k => eq_raise_of_fkind hs h, exec_fchar_of_no_fault h⟩

/-- An operation raises OutOfBounds exactly when it is `GET` or `PUT` and a coordinate is outside the grid. -/
theorem operationEffect_outOfBounds_iff {i : Instr} {s : State} : operationEffect i s = .raised .outOfBounds ↔
    AccessesGrid i ∧ gridAddr (s.operand 1) (s.operand 0) = none := by
  refine ⟨fun h => ?_, fun ⟨hi, ha⟩ => operationEffect_of_outside hi ha⟩
  rcases operationEffect_raised h with hk | ⟨_, hi, ha⟩
  · cases hk
  · exact ⟨hi, ha⟩

theorem exec_outOfBounds_iff {i : Instr} {s t : State} (hs : s.fkind = none) (h : exec i s = .next t) :
    t.fkind = some .outOfBounds ↔ AccessesGrid i ∧
      ((s.operand 1).toInt < 0 ∨ 80 ≤ (s.operand 1).toInt ∨ (s.operand 0).toInt < 0 ∨ 25 ≤ (s.operand 0).toInt) := by
  rw [exec_fkind_iff hs h, operationEffect_outOfBounds_iff, gridAddr_eq_none]

/-- After OutOfBounds nothing was written or pushed, and no step follows. -/
theorem exec_outOfBounds_frame {i : Instr} {s t : State} (hs : s.fkind = none) (h : exec i s = .next t)
    (hk : t.fkind = some .outOfBounds) : t.grid = s.grid ∧ t.stk = s.stk ∧ step t = .next t := by
  have hstep := step_of_faulted (s := t) (by rw [hk]; exact Option.some_ne_none _)
  rw [eq_raise_of_fkind hs h hk] at hstep ⊢
  exact ⟨rfl, rfl, hstep⟩

/-- A step that raises OutOfBounds has fetched `GET` or `PUT`: the other steps write no fault, or another one. -/
theorem step_fetches_access_of_outOfBounds {s t : State} (hs : s.fkind = none) (h : step s = .next t)
    (hk : t.fkind = some .outOfBounds) : ∃ i, decode s.strmode s.fetch = .operation i ∧ AccessesGrid i := by
  have hs' : (s.setBegun true).fkind = none := hs
  rcases step_cases h with ⟨_, rfl⟩ | ⟨_, k, _, hx⟩ | ⟨_, _, i, hd, hx⟩ | ⟨_, _, c, _, rfl⟩
  · rw [hs] at hk; cases hk
  · exact absurd ((exec_outOfBounds_iff hs' hx).mp hk).1 k.instr_not_accessesGrid
  · exact ⟨i, hd, ((exec_outOfBounds_iff hs' hx).mp hk).1⟩
  · cases hk

/-- Settles O40: the record says OutOfBounds exactly when the operation's bounds check failed; then the step kept
nothing. -/
theorem outOfBoundsExactlyOutsideTheGrid : Obligations.OutOfBoundsExactlyOutsideTheGrid := by
  unfold Obligations.OutOfBoundsExactlyOutsideTheGrid
  refine ⟨fun i s t hs h => ⟨exec_outOfBounds_iff hs h, exec_outOfBounds_frame hs h⟩, fun s t hs h hk => ?_⟩
  obtain ⟨i, hd, rfl | rfl⟩ := step_fetches_access_of_outOfBounds hs h hk
  · exact .inl hd
  · exact .inr hd

/-! ### Frames over all instructions -/

/-- What an instruction's step keeps, when every way to end keeps it: the operation that is done, the fault, the
wait. -/
theorem exec_frame {α : Type} (f : State → α) {i : Instr} {s t : State} (h : exec i s = .next t)
    (hdone : f (doneState i s).advance = f s) (hraise : ∀ k, f (s.raise k (encodeCell i)) = f s)
    (hheld : ∀ k : InKind, i = k.instr → f (s.setRequest (some k)) = f s) : f t = f s := by
  rcases exec_next_cases h with ⟨_, rfl⟩ | ⟨_, rfl⟩ | ⟨_, _, rfl⟩ | ⟨k, hk, rfl⟩
  · exact hdone
  · exact hraise _
  · exact hraise _
  · exact hheld k (operationEffect_held hk).1

theorem exec_strmode {i : Instr} {s t : State} (h : exec i s = .next t) (hi : i ≠ .quote) : t.strmode = s.strmode :=
  exec_frame State.strmode h (by rw [State.advance_strmode, doneState_strmode hi]) (fun _ => rfl) fun _ _ => rfl

theorem exec_halted {i : Instr} {s t : State} (h : exec i s = .next t) (hi : i ≠ .exit) : t.halted = s.halted :=
  exec_frame State.halted h (by rw [State.advance_halted, doneState_halted hi]) (fun _ => rfl) fun _ _ => rfl

theorem exec_grid {i : Instr} {s t : State} (h : exec i s = .next t) (hi : i ≠ .put) : t.grid = s.grid :=
  exec_frame State.grid h (by rw [State.advance_grid, doneState_grid hi]) (fun _ => rfl) fun _ _ => rfl

theorem exec_depth {i : Instr} {s t : State} (h : exec i s = .next t) : t.depth = s.depth :=
  exec_frame State.depth h (by simp) (fun _ => rfl) fun _ _ => rfl

theorem exec_run {i : Instr} {s t : State} (h : exec i s = .next t) : t.run = s.run :=
  exec_frame State.run h (by simp) (fun _ => rfl) fun _ _ => rfl

theorem exec_begun {i : Instr} {s t : State} (h : exec i s = .next t) : t.begun = s.begun :=
  exec_frame State.begun h (by simp) (fun _ => rfl) fun _ _ => rfl

theorem exec_out {i : Instr} {s t : State} (h : exec i s = .next t) (hc : i ≠ .outc) (hi : i ≠ .outi) :
    t.out = s.out :=
  exec_frame State.out h (by rw [State.advance_out, doneState_out hc hi]) (fun _ => rfl) fun _ _ => rfl

theorem exec_intIn {i : Instr} {s t : State} (h : exec i s = .next t) (hi : i ≠ .ini) : t.intIn = s.intIn :=
  exec_frame State.intIn h (by rw [State.advance_intIn, doneState_intIn hi]) (fun _ => rfl) fun _ _ => rfl

theorem exec_charIn {i : Instr} {s t : State} (h : exec i s = .next t) (hi : i ≠ .inc) : t.charIn = s.charIn :=
  exec_frame State.charIn h (by rw [State.advance_charIn, doneState_charIn hi]) (fun _ => rfl) fun _ _ => rfl

theorem exec_request {i : Instr} {s t : State} (h : exec i s = .next t) (hi : i ≠ .ini) (hc : i ≠ .inc) :
    t.request = s.request := by
  refine exec_frame State.request h (by rw [State.advance_request, doneState_request hi hc]) (fun _ => rfl) ?_
  rintro (_ | _) hk
  · exact absurd hk hc
  · exact absurd hk hi

theorem exec_rnd {i : Instr} {s t : State} (h : exec i s = .next t) (hi : i ≠ .rand) : t.rnd = s.rnd :=
  exec_frame State.rnd h (by rw [State.advance_rnd, doneState_rnd hi]) (fun _ => rfl) fun _ _ => rfl

theorem exec_draws {i : Instr} {s t : State} (h : exec i s = .next t) (hi : i ≠ .rand) : t.draws = s.draws :=
  exec_frame State.draws h (by rw [State.advance_draws, doneState_draws hi]) (fun _ => rfl) fun _ _ => rfl

/-! ### The mode bits (10_state R15 to R17, 60_exceptions R145, 70_reset_and_hazards R161) -/

theorem step_of_halted {s : State} (h : s.halted = true) : step s = .next s :=
  step_of_not_enabled (Bool.eq_false_of_not_eq_true fun he => by simp [(State.enabled_iff.mp he).1] at h)

theorem step_of_run_low {s : State} (h : s.run = false) : step s = .next s :=
  step_of_not_enabled (Bool.eq_false_of_not_eq_true fun he => by simp [(State.enabled_iff.mp he).2.2] at h)

/-- Settles O52: the frames of the two bits, and a core that is halted or faulted takes no step. -/
theorem modeBitsOnlyChangedByTheirInstruction : Obligations.ModeBitsOnlyChangedByTheirInstruction := by
  unfold Obligations.ModeBitsOnlyChangedByTheirInstruction
  refine ⟨fun i s t h => ⟨exec_strmode h, exec_halted h⟩, fun s t h => ⟨fun hh => ?_, fun k hk => ?_⟩⟩
  · rw [step_of_halted hh, Host.Outcome.next.injEq] at h
    rw [← h, hh]
  · rw [step_of_faulted (by rw [hk]; exact Option.some_ne_none _), Host.Outcome.next.injEq] at h
    rw [← h]
    exact ⟨hk, rfl⟩

/-- Settles O5: in each of the three cases no step is enabled. -/
theorem stateHoldsWhenNotEnabled : Obligations.StateHoldsWhenNotEnabled := by
  unfold Obligations.StateHoldsWhenNotEnabled
  rintro s (h | h | h)
  · exact step_of_halted h
  · exact step_of_faulted h
  · exact step_of_run_low h

/-! ### The ports (10_state R24 to R26) -/

/-- Both output instructions append one token. -/
theorem exec_out_append {i : Instr} {s t : State} (h : exec i s = .next t) :
    ∃ new, t.out = s.out ++ new ∧ new.length ≤ 1 := by
  by_cases hi : i = .outc ∨ i = .outi
  · rcases hi with rfl | rfl
    · rw [exec_outc, Host.Outcome.next.injEq] at h
      exact ⟨[_], by rw [← h, State.advance_out, State.emit_out, State.setStk_out], le_rfl⟩
    · rw [exec_outi, Host.Outcome.next.injEq] at h
      exact ⟨[_], by rw [← h, State.advance_out, State.emit_out, State.setStk_out], le_rfl⟩
  · rw [not_or] at hi
    exact ⟨[], by rw [exec_out h hi.1 hi.2, List.append_nil], Nat.zero_le _⟩

/-- The integer tokens are taken from the front, one at most. -/
theorem exec_intIn_cases {i : Instr} {s t : State} (h : exec i s = .next t) :
    t.intIn = s.intIn ∨ ∃ x, s.intIn = x :: t.intIn := by
  by_cases hi : i = .ini
  · subst hi
    rw [exec_eq_finish] at h
    rcases inputInt_cases s with ⟨_, e⟩ | ⟨_, _, e⟩ | ⟨_, x, rest, hx, e⟩ <;>
      rw [operationEffect, e] at h <;> cases h
    · exact .inl rfl
    · exact .inl rfl
    · exact .inr ⟨x, by rw [hx, State.advance_intIn]; rfl⟩
  · exact .inl (exec_intIn h hi)

/-- The character tokens are taken from the front, one at most. -/
theorem exec_charIn_cases {i : Instr} {s t : State} (h : exec i s = .next t) :
    t.charIn = s.charIn ∨ ∃ x, s.charIn = x :: t.charIn := by
  by_cases hi : i = .inc
  · subst hi
    rw [exec_eq_finish] at h
    rcases inputChar_cases s with ⟨_, e⟩ | ⟨_, _, e⟩ | ⟨_, x, rest, hx, e⟩ <;>
      rw [operationEffect, e] at h <;> cases h
    · exact .inl rfl
    · exact .inl rfl
    · exact .inr ⟨x, by rw [hx, State.advance_charIn]; rfl⟩
  · exact .inl (exec_charIn h hi)

theorem exec_rand (s : State) :
    exec .rand s = .next ((drawDir s).2.setDir (Dir.ofCode (drawDir s).1)).advance := by
  rw [exec_eq_finish, operationEffect, finish_done]

/-- The draws that the host has set are taken from the front, one at most. -/
theorem exec_rnd_cases {i : Instr} {s t : State} (h : exec i s = .next t) :
    t.rnd = s.rnd ∨ ∃ x, s.rnd = x :: t.rnd := by
  by_cases hi : i = .rand
  · subst hi
    rw [exec_rand, Host.Outcome.next.injEq] at h
    rw [← h, State.advance_rnd, State.setDir_rnd]
    rcases drawDir_cases s with ⟨hr, e⟩ | ⟨r, rest, hr, e⟩
    · exact .inl (by rw [e])
    · exact .inr ⟨r, by rw [e, hr]⟩
  · exact .inl (exec_rnd h hi)

/-- Settles O53: one frame per port, and for the lists that a port's own instruction takes from or adds to, what it can
do to them. -/
theorem portsOnlyUsedByTheirInstruction : Obligations.PortsOnlyUsedByTheirInstruction := by
  unfold Obligations.PortsOnlyUsedByTheirInstruction
  intro i s t h
  exact ⟨exec_depth h, exec_run h, exec_begun h, exec_out h, exec_intIn h, exec_charIn h, exec_request h,
    fun hi => ⟨exec_rnd h hi, exec_draws h hi⟩, exec_out_append h, exec_intIn_cases h, exec_charIn_cases h,
    exec_rnd_cases h⟩

/-! ### The stack (10_state R11, 40_stack R79) -/

/-- Settles O54: an operation that is done leaves the cells below its operands, a fault and a wait leave all; the depth
is that of a completed instruction. -/
theorem stackChangesOnlyByPopsAndPushes : Obligations.StackChangesOnlyByPopsAndPushes := by
  unfold Obligations.StackChangesOnlyByPopsAndPushes
  refine fun i s t h => ⟨?_, fun hf hint hchar => ?_⟩
  · rcases exec_next_cases h with ⟨_, rfl⟩ | ⟨_, rfl⟩ | ⟨_, _, rfl⟩ | ⟨k, _, rfl⟩
    · rw [State.advance_stk]; exact drop_instrPops_suffix_doneState i s
    · exact List.drop_suffix _ _
    · exact List.drop_suffix _ _
    · exact List.drop_suffix _ _
  · rw [exec_completed h hf hint hchar, State.advance_sp, doneState_sp]

end Sys2Proof.Machine

namespace Sys2Proof.Machine

/-! ### `GET` and `PUT` (43_grid_access R115, R116) -/

theorem zextW_eq (c : Byte) : zextW c = BitVec.ofNat 32 c.toNat :=
  (BitVec.ofNat_toNat 32 c).symm

theorem lowByte_eq (v : Word) : lowByte v = BitVec.ofNat 8 (v.toNat % 256) := by
  rw [← BitVec.toNat_inj, lowByte, BitVec.toNat_setWidth, BitVec.toNat_ofNat, Nat.mod_mod]

theorem zextW_lowByte (v : Word) : zextW (lowByte v) = BitVec.ofNat 32 (v.toNat % 256) := by
  rw [zextW_eq, lowByte, BitVec.toNat_setWidth]

theorem exec_get_of_some {s : State} {a : Nat} (h : s.stackWf = true)
    (ha : gridAddr (s.operand 1) (s.operand 0) = some a) :
    exec .get s = .next (s.setStk (BitVec.ofNat 32 (s.grid.read a).toNat :: s.stk.drop 2)).advance := by
  rw [exec_eq_finish, operationEffect, gridGet_of_some h ha, finish_done, zextW_eq]

theorem exec_put_of_some {s : State} {a : Nat} (ha : gridAddr (s.operand 1) (s.operand 0) = some a) :
    exec .put s =
      .next ((s.setStk (s.stk.drop 3)).setGrid (s.grid.write a (lowByte (s.operand 2)))).advance := by
  rw [exec_eq_finish, operationEffect, gridPut_of_some ha, finish_done]

/-- Outside the grid `GET` and `PUT` leave everything as it was but the fault record. -/
theorem exec_of_outside {i : Instr} {s : State} (hi : AccessesGrid i)
    (ha : gridAddr (s.operand 1) (s.operand 0) = none) : exec i s = .next (s.raise .outOfBounds (encodeCell i)) := by
  rw [exec_eq_finish, operationEffect_of_outside hi ha, finish_raised]

/-- Settles O37: `GET` by the outcome of its bounds check. -/
theorem getPushesTheCellOrFaults : Obligations.GetPushesTheCellOrFaults := by
  unfold Obligations.GetPushesTheCellOrFaults
  refine ⟨Laws.DecodeEncode.get rfl false rfl, fun s hw => ⟨fun hx hx' hy hy' => ?_, fun hout => ?_⟩⟩
  · exact exec_get_of_some hw (gridAddr_eq_some.mpr ⟨⟨hx, hx', hy, hy'⟩, rfl⟩)
  · exact exec_of_outside (.inl rfl) (gridAddr_eq_none.mpr hout)

/-- Settles O38: `PUT` by the outcome of its bounds check; the grid it leaves reads as a write does. -/
theorem putStoresOneCellOrFaults : Obligations.PutStoresOneCellOrFaults := by
  unfold Obligations.PutStoresOneCellOrFaults
  refine ⟨Laws.DecodeEncode.put rfl false rfl, fun s hg => ⟨fun hx hx' hy hy' => ?_, fun hout => ?_⟩⟩
  · refine ⟨_, exec_put_of_some (gridAddr_eq_some.mpr ⟨⟨hx, hx', hy, hy'⟩, rfl⟩), fun a => ?_⟩
    rw [Memory.read_write hg, lowByte_eq]
    simp only [eq_comm]
  · exact exec_of_outside (.inr rfl) (gridAddr_eq_none.mpr hout)

/-- After a `PUT` in the grid the stored cell reads as the low byte, and every other as before. -/
theorem exec_put_read {s t : State} {a : Nat} (hg : s.grid.wf = true)
    (ha : gridAddr (s.operand 1) (s.operand 0) = some a) (h : exec .put s = .next t) (b : Nat) :
    t.grid.read b = if a = b then lowByte (s.operand 2) else s.grid.read b := by
  rw [exec_put_of_some ha, Host.Outcome.next.injEq] at h
  rw [← h, State.advance_grid, State.setGrid_grid, Memory.read_write hg]

/-- The coordinates put back on the stack that a `PUT` left take no more room than there was. -/
theorem stackWf_of_put {s t u : State} {a : Nat} {x y : Word} (hw : s.stackWf = true)
    (ha : gridAddr (s.operand 1) (s.operand 0) = some a) (h : exec .put s = .next t) (hud : u.depth = t.depth)
    (hus : u.stk = y :: x :: t.stk) : u.stackWf = true := by
  rw [exec_put_of_some ha, Host.Outcome.next.injEq] at h
  subst h
  rw [State.stackWf_iff] at hw ⊢
  intro n hn
  rw [hud, State.advance_depth] at hn
  obtain ⟨h2, hsp⟩ := hw n hn
  have hlen : u.sp = s.sp - 3 + 2 := by simp [State.sp, hus]
  exact ⟨h2, by omega⟩

/-- A `GET` of the coordinates of a `PUT`, over what the `PUT` left, reads what it stored. -/
theorem exec_get_of_put {s t u : State} {a : Nat} (hw : s.stackWf = true) (hg : s.grid.wf = true)
    (ha : gridAddr (s.operand 1) (s.operand 0) = some a) (h : exec .put s = .next t) (hug : u.grid = t.grid)
    (hud : u.depth = t.depth) (hus : u.stk = s.operand 0 :: s.operand 1 :: t.stk) :
    exec .get u = .next (u.setStk (BitVec.ofNat 32 ((s.operand 2).toNat % 256) :: t.stk)).advance := by
  have h0 : u.operand 0 = s.operand 0 := by rw [State.operand, hus]; rfl
  have h1 : u.operand 1 = s.operand 1 := by rw [State.operand, hus]; rfl
  have hd : u.stk.drop 2 = t.stk := by rw [hus]; rfl
  have hr : zextW (u.grid.read a) = BitVec.ofNat 32 ((s.operand 2).toNat % 256) := by
    rw [hug, exec_put_read hg ha h, if_pos rfl, zextW_lowByte]
  rw [exec_get_of_some (stackWf_of_put hw ha h hud hus) (by rw [h0, h1, ha]), hd, ← zextW_eq, hr]

/-- Settles O41: the fetch by the read after the write, the `GET` by the same at its own coordinates. -/
theorem storeIsSeenByTheNextFetchAndGet : Obligations.StoreIsSeenByTheNextFetchAndGet := by
  unfold Obligations.StoreIsSeenByTheNextFetchAndGet
  intro s t a hw hg ha h
  have hfetch : t.fetch = t.grid.read (cellAddr t.pcx t.pcy) := rfl
  rw [hfetch, exec_put_read hg ha h]
  refine ⟨fun hc => if_pos hc.symm, fun hc => if_neg (Ne.symm hc), fun u hug hud hus => ?_⟩
  exact exec_get_of_put hw hg ha h hug hud hus

/-! ### Who writes the grid and the rest of the architectural state (10_state R28, 60_exceptions R156) -/

/-- An integer is an answer exactly where one is asked for, and stands behind those not yet taken. -/
theorem hostMove_answerInt_eq_some {s t : State} {a : IntToken} : s.hostMove (.answerInt a) = some t ↔
    s.inputRequest = some .int ∧ t = s.setIntIn (s.intIn ++ [a]) := by
  rw [State.hostMove]
  by_cases h : s.inputRequest = some .int <;> simp [h, eq_comm]

/-- A character is an answer exactly where one is asked for, and stands behind those not yet taken. -/
theorem hostMove_answerChar_eq_some {s t : State} {a : CharToken} : s.hostMove (.answerChar a) = some t ↔
    s.inputRequest = some .char ∧ t = s.setCharIn (s.charIn ++ [a]) := by
  rw [State.hostMove]
  by_cases h : s.inputRequest = some .char <;> simp [h, eq_comm]

/-- With `run` up, or during a run, a move of the host that has a result writes neither the grid nor, unless it is
`RESET`, any other element of the architectural state. -/
theorem hostMove_frame {s t : State} {m : HostMove} (hr : s.run = true ∨ s.inRun = true)
    (h : s.hostMove m = some t) : t.grid = s.grid ∧ t.depth = s.depth ∧
    (m ≠ .reset → t.stk = s.stk ∧ t.pcx = s.pcx ∧ t.pcy = s.pcy ∧ t.dir = s.dir ∧ t.strmode = s.strmode ∧
      t.halted = s.halted ∧ t.fkind = s.fkind ∧ t.fchar = s.fchar) := by
  cases m with
  | load x y c => cases (State.load_eq_none hr x y c).symm.trans h
  | reset => cases h; exact ⟨rfl, rfl, fun hm => absurd rfl hm⟩
  | run level => cases h; exact ⟨rfl, rfl, fun _ => ⟨rfl, rfl, rfl, rfl, rfl, rfl, rfl, rfl⟩⟩
  | draw r => cases h; exact ⟨rfl, rfl, fun _ => ⟨rfl, rfl, rfl, rfl, rfl, rfl, rfl, rfl⟩⟩
  | answerInt a =>
    obtain ⟨_, rfl⟩ := hostMove_answerInt_eq_some.mp h
    exact ⟨rfl, rfl, fun _ => ⟨rfl, rfl, rfl, rfl, rfl, rfl, rfl, rfl⟩⟩
  | answerChar a =>
    obtain ⟨_, rfl⟩ := hostMove_answerChar_eq_some.mp h
    exact ⟨rfl, rfl, fun _ => ⟨rfl, rfl, rfl, rfl, rfl, rfl, rfl, rfl⟩⟩

/-- Settles O39: the frame of the grid, the read after `PUT`'s write, and the frame of the host's moves. -/
theorem onlyPutWritesTheGrid : Obligations.OnlyPutWritesTheGrid := by
  unfold Obligations.OnlyPutWritesTheGrid
  refine ⟨fun i s t hg h => ⟨fun hi b => by rw [exec_grid h hi], ?_, ?_⟩, fun s t m hr h => hostMove_frame hr h⟩
  · rintro a rfl ha
    refine ⟨by rw [exec_put_read hg ha h, if_pos rfl], fun b hb => ?_⟩
    rw [exec_put_read hg ha h, if_neg hb.symm]
  · rintro rfl ha b
    rw [exec_of_outside (.inr rfl) ha, Host.Outcome.next.injEq] at h
    rw [← h, State.raise_grid]

/-! ### The hold (44_system_io R129, 70_reset_and_hazards R167) -/

/-- The request that a core shows is the one it made. -/
theorem request_of_inputRequest {s : State} {k : InKind} (h : s.inputRequest = some k) : s.request = some k := by
  unfold State.inputRequest at h
  split at h
  · exact h
  · cases h

theorem holding_answerInt {s : State} (h : s.request = some .int) (a : IntToken) :
    (s.setIntIn (s.intIn ++ [a])).holding = false := by
  simp [State.holding, h]

theorem holding_answerChar {s : State} (h : s.request = some .char) (a : CharToken) :
    (s.setCharIn (s.charIn ++ [a])).holding = false := by
  simp [State.holding, h]

/-- What each move of the host does to a core that holds. -/
theorem hostMove_of_holding {s t : State} {m : HostMove} (hs : s.holding = true) (h : s.hostMove m = some t) :
    (∃ a, m = .answerInt a ∧ s.request = some .int ∧ t.holding = false) ∨
    (∃ a, m = .answerChar a ∧ s.request = some .char ∧ t.holding = false) ∨
    (m = .reset ∧ t = s.rst ∧ t.request = none) ∨
    (t.holding = true ∧ t.inputRequest = s.inputRequest ∧ t.pcx = s.pcx ∧ t.pcy = s.pcy ∧ t.stk = s.stk) := by
  cases m with
  | load x y c =>
    obtain ⟨_, _, rfl⟩ := State.load_eq_some.mp h
    exact .inr (.inr (.inr ⟨hs, rfl, rfl, rfl, rfl⟩))
  | reset => cases h; exact .inr (.inr (.inl ⟨rfl, rfl, rfl⟩))
  | run level => cases h; exact .inr (.inr (.inr ⟨hs, rfl, rfl, rfl, rfl⟩))
  | draw r => cases h; exact .inr (.inr (.inr ⟨hs, rfl, rfl, rfl, rfl⟩))
  | answerInt a =>
    obtain ⟨hk, rfl⟩ := hostMove_answerInt_eq_some.mp h
    exact .inl ⟨a, rfl, request_of_inputRequest hk, holding_answerInt (request_of_inputRequest hk) a⟩
  | answerChar a =>
    obtain ⟨hk, rfl⟩ := hostMove_answerChar_eq_some.mp h
    exact .inr (.inl ⟨a, rfl, request_of_inputRequest hk, holding_answerChar (request_of_inputRequest hk) a⟩)

theorem State.request_of_holding {s : State} (h : s.holding = true) : ∃ k, s.request = some k := by
  rcases State.holding_cases h with ⟨hk, _⟩ | ⟨hk, _⟩
  · exact ⟨_, hk⟩
  · exact ⟨_, hk⟩

/-- A core that holds within the invariant is in a run. -/
theorem State.inRun_of_holding {s : State} (hq : s.requestWf = true) (h : s.holding = true) : s.inRun = true := by
  obtain ⟨k, hk⟩ := State.request_of_holding h
  obtain ⟨hb, hh, hf, _, _⟩ := State.requestWf_of_some hq hk
  simp [State.inRun, hb, hh, hf]

theorem State.condition_of_holding {s : State} (hq : s.requestWf = true) (h : s.holding = true) :
    s.condition = .holding := by
  obtain ⟨k, hk⟩ := State.request_of_holding h
  obtain ⟨_, hh, hf, _, _⟩ := State.requestWf_of_some hq hk
  simp [State.condition, hh, hf, h]

/-- Where none is waited for there is no answer (70_reset_and_hazards R170). -/
theorem inputRequest_of_not_holding {s : State} (h : s.holding = false) : s.inputRequest = none := by
  rw [State.inputRequest, h]
  rfl

/-- Settles O60: every move of the host by what it does to a core that holds; the invariant's clause on the request
puts that core in a run. -/
theorem holdEndsOnlyByAnswerOrReset : Obligations.HoldEndsOnlyByAnswerOrReset := by
  unfold Obligations.HoldEndsOnlyByAnswerOrReset
  refine ⟨fun s t m => hostMove_of_holding, fun s level x y c hq hs => ?_, fun s hq hs => ⟨?_, fun level => ?_⟩,
    fun s hs => ⟨fun a => ?_, fun a => ?_⟩⟩
  · exact State.load_eq_none (.inr (State.inRun_of_holding (s := s.setRun level) hq hs)) x y c
  · exact State.condition_of_holding hq hs
  · exact State.condition_of_holding (s := s.setRun level) hq hs
  · rw [State.hostMove, inputRequest_of_not_holding hs]; rfl
  · rw [State.hostMove, inputRequest_of_not_holding hs]; rfl

theorem exec_input_of_held {k : InKind} {s : State} (h : operationEffect k.instr s = .held k) :
    exec k.instr s = .next (s.setRequest (some k)) := by
  rw [exec_eq_finish, h, finish_held]

/-- A core that holds has room and no answer, so the operation of its input step waits. -/
theorem operationEffect_of_holding {s : State} (hq : s.requestWf = true) (h : s.holding = true) :
    ∃ k, s.request = some k ∧ operationEffect k.instr s = .held k := by
  obtain ⟨k, hk⟩ := State.request_of_holding h
  obtain ⟨_, _, _, _, hroom⟩ := State.requestWf_of_some hq hk
  rcases State.holding_cases h with ⟨hk, hi⟩ | ⟨hk, hc⟩
  · exact ⟨.int, hk, inputInt_hold hroom hi⟩
  · exact ⟨.char, hk, inputChar_hold hroom hc⟩

/-- A step of a core that holds leaves it as it is (44_system_io R129). -/
theorem step_of_holding {s : State} (hq : s.requestWf = true) (h : s.holding = true) : step s = .next s := by
  cases he : s.enabled with
  | false => exact step_of_not_enabled he
  | true =>
    obtain ⟨k, hk, hheld⟩ := operationEffect_of_holding hq h
    obtain ⟨hb, _⟩ := State.requestWf_of_some hq hk
    have hs : s.setBegun true = s := by rw [← hb]; rfl
    have hr : s.setRequest (some k) = s := by rw [← hk]; rfl
    rw [step_of_request he hk, hs, exec_input_of_held hheld, hr]

/-- A state that is its own next state is so after any number of steps. -/
theorem runSteps_of_step_self {s : State} (h : step s = .next s) (n : Nat) : runSteps n s = .next s := by
  induction n with
  | zero => rfl
  | succ n ih => rw [runSteps_succ_of_next h, ih]

theorem exec_ini_take {s : State} {t : IntToken} {rest : List IntToken} (hf : s.full = false)
    (hi : s.intIn = t :: rest) :
    exec .ini s = .next (((s.setIntIn rest).setRequest none).setStk (t.value :: s.stk)).advance := by
  rw [exec_eq_finish, operationEffect, inputInt_take hf hi, finish_done]

theorem exec_inc_take {s : State} {t : CharToken} {rest : List CharToken} (hf : s.full = false)
    (hi : s.charIn = t :: rest) :
    exec .inc s = .next (((s.setCharIn rest).setRequest none).setStk (t.value :: s.stk)).advance := by
  rw [exec_eq_finish, operationEffect, inputChar_take hf hi, finish_done]

/-- The step of an answered integer request, with `run` up. -/
theorem step_answerInt {s : State} (hq : s.requestWf = true) (hk : s.request = some .int) (hi : s.intIn = [])
    (a : IntToken) : step ((s.setIntIn [a]).setRun true) =
      .next (((s.setRun true).setRequest none).setStk (a.value :: s.stk)).advance := by
  obtain ⟨hb, hh, hf, _, hroom⟩ := State.requestWf_of_some hq hk
  have hs : (s.setIntIn []).setBegun true = s := by rw [← hi, ← hb]; rfl
  have he : ((s.setIntIn [a]).setRun true).enabled = true := State.enabled_iff.mpr ⟨hh, hf, rfl⟩
  have hx := exec_ini_take (s := ((s.setIntIn [a]).setRun true).setBegun true) (rest := []) hroom rfl
  rw [step_of_request he hk, InKind.instr, hx]
  conv_rhs => rw [← hs]
  rfl

/-- The step of an answered character request, with `run` up. -/
theorem step_answerChar {s : State} (hq : s.requestWf = true) (hk : s.request = some .char) (hi : s.charIn = [])
    (a : CharToken) : step ((s.setCharIn [a]).setRun true) =
      .next (((s.setRun true).setRequest none).setStk (a.value :: s.stk)).advance := by
  obtain ⟨hb, hh, hf, _, hroom⟩ := State.requestWf_of_some hq hk
  have hs : (s.setCharIn []).setBegun true = s := by rw [← hi, ← hb]; rfl
  have he : ((s.setCharIn [a]).setRun true).enabled = true := State.enabled_iff.mpr ⟨hh, hf, rfl⟩
  have hx := exec_inc_take (s := ((s.setCharIn [a]).setRun true).setBegun true) (rest := []) hroom rfl
  rw [step_of_request he hk, InKind.instr, hx]
  conv_rhs => rw [← hs]
  rfl

/-- Where a core holds for an integer, none stands. -/
theorem State.intIn_of_holding {s : State} (h : s.holding = true) (hk : s.request = some .int) : s.intIn = [] := by
  rcases State.holding_cases h with ⟨_, hi⟩ | ⟨hk', _⟩
  · exact hi
  · cases hk.symm.trans hk'

/-- Where a core holds for a character, none stands. -/
theorem State.charIn_of_holding {s : State} (h : s.holding = true) (hk : s.request = some .char) :
    s.charIn = [] := by
  rcases State.holding_cases h with ⟨hk', _⟩ | ⟨_, hc⟩
  · cases hk.symm.trans hk'
  · exact hc

theorem hostMove_answerInt_of_holding {s : State} (h : s.holding = true) (hk : s.request = some .int)
    (a : IntToken) : s.hostMove (.answerInt a) = some (s.setIntIn [a]) := by
  refine hostMove_answerInt_eq_some.mpr ⟨(State.inputRequest_of_holding h).trans hk, ?_⟩
  rw [State.intIn_of_holding h hk, List.nil_append]

theorem hostMove_answerChar_of_holding {s : State} (h : s.holding = true) (hk : s.request = some .char)
    (a : CharToken) : s.hostMove (.answerChar a) = some (s.setCharIn [a]) := by
  refine hostMove_answerChar_eq_some.mpr ⟨(State.inputRequest_of_holding h).trans hk, ?_⟩
  rw [State.charIn_of_holding h hk, List.nil_append]

/-- Settles O49: an unanswered input step waits, so the step of a core that holds is the same state; an answer makes
the step complete, once `run` is up. -/
theorem inputHoldKeepsAllStateUntilAnswered : Obligations.InputHoldKeepsAllStateUntilAnswered := by
  unfold Obligations.InputHoldKeepsAllStateUntilAnswered
  refine ⟨fun s hf => ⟨fun hi => ?_, fun hc => ?_⟩, fun s n hq h => runSteps_of_step_self (step_of_holding hq h) n,
    fun s n hq h hk => ?_, fun s c hq h hk => ?_⟩
  · exact exec_input_of_held (k := .int) (inputInt_hold hf hi)
  · exact exec_input_of_held (k := .char) (inputChar_hold hf hc)
  · have hi := State.intIn_of_holding h hk
    have hmove := hostMove_answerInt_of_holding h hk (.int n)
    refine ⟨_, hmove, ?_, fun hr => step_of_run_low hr, step_answerInt hq hk hi (.int n)⟩
    simp [State.holding, hk]
  · have hc := State.charIn_of_holding h hk
    have hmove := hostMove_answerChar_of_holding h hk (.char c)
    refine ⟨_, hmove, ?_, fun hr => step_of_run_low hr, ?_⟩
    · simp [State.holding, hk]
    · rw [← zextW_eq]
      exact step_answerChar hq hk hc (.char c)

/-! ### Launch and RESET (10_state R27, 70_reset_and_hazards R160, R163) -/

/-- Every start of a run meets the invariant: an empty stack, no fault, no request. -/
theorem State.inv_of_start {s : State} (hg : s.grid.wf = true) (hd : s.depth.wf = true) (hs : s.stk = [])
    (hf : s.fkind = none) (hc : s.fchar = 0) (hq : s.request = none) : s.Inv := by
  refine ⟨hg, ?_, (State.faultRecordWf_of_none hf).mpr hc, State.requestWf_of_none hq⟩
  rw [State.stackWf, hd, Bool.true_and, State.sp, hs]
  cases s.depth <;> simp [Depth.admits]

/-- Settles O1: `State.reset` and a launched core are starts of a run. -/
theorem invHoldsAtLaunch : Obligations.InvHoldsAtLaunch := by
  unfold Obligations.InvHoldsAtLaunch
  refine ⟨State.inv_of_start rfl rfl rfl rfl rfl rfl, fun g d hg hd => ?_⟩
  exact State.inv_of_start hg hd rfl rfl rfl rfl

/-- Settles O7: the fields that `RESET` sets and those it leaves, and its state as a start of a run. -/
theorem resetRestoresAllButGrid : Obligations.ResetRestoresAllButGrid := by
  unfold Obligations.ResetRestoresAllButGrid
  refine fun s => ⟨⟨rfl, rfl, rfl, rfl, rfl, rfl, rfl, rfl, rfl, rfl⟩, fun _ _ => rfl, rfl, rfl, rfl, rfl, rfl, rfl,
    rfl, rfl, fun hg hd => ?_, rfl⟩
  exact State.inv_of_start hg hd rfl rfl rfl rfl

/-! ### The step and the fetch (30_encoding R60) -/

theorem read_eq_fetch (s : State) : s.grid.read (s.pcy.val * 80 + s.pcx.val) = s.fetch := rfl

/-- Settles O4: the enabled step by whether an input step is at hand; what was decoded is well-formed and has the code
that was fetched. -/
theorem stepRunsTheFetchedInstruction : Obligations.StepRunsTheFetchedInstruction := by
  unfold Obligations.StepRunsTheFetchedInstruction
  refine ⟨fun s i hh hf hr hq hd => ?_, fun s hh hf hr => ?_⟩
  · rw [read_eq_fetch] at hd ⊢
    have he := State.enabled_iff.mpr ⟨hh, hf, hr⟩
    exact ⟨step_of_operation he hq hd, (wellFormed_of_decode hd).1, encodeCell_of_decode hd⟩
  · have he := State.enabled_iff.mpr ⟨hh, hf, hr⟩
    exact ⟨fun hk => step_of_request he hk, fun hk => step_of_request he hk⟩

end Sys2Proof.Machine

namespace Sys2Proof.Machine

/-! ### Pushes of the instruction's own code (40_stack R74, R75) -/

theorem exec_pushd_of_room {s : State} (d : BitVec 4) (h : s.full = false) :
    exec (.pushd d) s = .next (s.setStk (BitVec.ofNat 32 d.toNat :: s.stk)).advance := by
  rw [exec_eq_finish, operationEffect, push_of_not_full _ h, finish_done, digitValue, BitVec.ofNat_toNat]

theorem exec_strpush_of_room {s : State} (c : Byte) (h : s.full = false) :
    exec (.strpush c) s = .next (s.setStk (BitVec.ofNat 32 c.toNat :: s.stk)).advance := by
  rw [exec_eq_finish, operationEffect, push_of_not_full _ h, finish_done, zextW_eq]

/-- An instruction whose operation overflows leaves everything as it was but the fault record. -/
theorem exec_of_overflow {i : Instr} {s : State} (h : operationEffect i s = .raised .stackOverflow) :
    exec i s = .next (s.raise .stackOverflow (encodeCell i)) := by
  rw [exec_eq_finish, h, finish_raised]

/-- The code of a digit is 0x30 more (30_encoding R54). -/
theorem encodeCell_pushd {d : BitVec 4} : encodeCell (.pushd d) = BitVec.ofNat 8 (0x30 + d.toNat) := by
  rw [encodeCell]
  bv_omega

/-- The digits are not the quote. -/
theorem digit_ne_quote (d : BitVec 4) : BitVec.ofNat 8 (0x30 + d.toNat) ≠ 0x22 := by
  bv_omega

/-- Settles O13: a digit's code is classified by mode; the push by the room on the stack. -/
theorem pushdPushesItsDigit : Obligations.PushdPushesItsDigit := by
  unfold Obligations.PushdPushesItsDigit
  intro d hd
  rw [← encodeCell_pushd]
  refine ⟨Laws.DecodeEncode.pushd d (decide_eq_true hd) false rfl, ?_, fun s => ⟨exec_pushd_of_room d, fun hf => ?_⟩⟩
  · have hne : encodeCell (.pushd d) ≠ 0x22 := encodeCell_pushd ▸ digit_ne_quote d
    exact Laws.DecodeEncode.strpush _ (decide_eq_true hne) true rfl
  · exact exec_of_overflow (push_of_full _ hf)

theorem decode_true_of_ne_quote {c : Byte} (hc : c ≠ 0x22) : decode true c = .operation (.strpush c) :=
  Laws.DecodeEncode.strpush c (decide_eq_true hc) true rfl

/-- Settles O14: string-mode data by its classification; the push by the room on the stack. -/
theorem strpushPushesTheCode : Obligations.StrpushPushesTheCode := by
  unfold Obligations.StrpushPushesTheCode
  refine fun c hc => ⟨decode_true_of_ne_quote hc, fun s => ⟨exec_strpush_of_room c, fun hf => ?_⟩⟩
  exact exec_of_overflow (push_of_full _ hf)

/-- A step in string mode on a code that is not the quote pushes that code. -/
theorem step_in_string {s : State} (he : s.enabled = true) (hq : s.request = none) (hm : s.strmode = true)
    (hc : s.fetch ≠ 0x22) (hf : s.full = false) :
    step s = .next ((s.setBegun true).setStk (BitVec.ofNat 32 s.fetch.toNat :: s.stk)).advance := by
  rw [step_of_operation he hq (by rw [hm, decode_true_of_ne_quote hc])]
  exact exec_strpush_of_room (s := s.setBegun true) s.fetch hf

/-- Settles O15: the classification in string mode, and the step that it makes of a code that is not the quote. -/
theorem stringModeTreatsEveryCodeAsData : Obligations.StringModeTreatsEveryCodeAsData := by
  unfold Obligations.StringModeTreatsEveryCodeAsData
  refine ⟨fun c => decode_true_of_ne_quote, fun s hh hf hr hq hm hc hfull => ?_, Laws.DecodeEncode.quote rfl true rfl⟩
  exact step_in_string (State.enabled_iff.mpr ⟨hh, hf, hr⟩) hq hm hc hfull

/-! ### `SWAP` and `DUP` (40_stack R72, R73, R76, R77) -/

theorem exec_swap {s : State} (h : s.stackWf = true) :
    exec .swap s = .next (s.setStk (s.operand 1 :: s.operand 0 :: s.stk.drop 2)).advance := by
  rw [exec_eq_finish, operationEffect, swap_eq h, finish_done]

theorem exists_stk_eq_cons_cons {s : State} (h : 2 ≤ s.sp) : ∃ a b rest, s.stk = a :: b :: rest := by
  rw [State.sp] at h
  match hs : s.stk with
  | [] => rw [hs] at h; simp at h
  | [a] => rw [hs] at h; simp at h
  | a :: b :: rest => exact ⟨a, b, rest, rfl⟩

/-- Two swaps of a stack of two or more cells restore it. -/
theorem swap_swap {s : State} (hw : s.stackWf = true) (h : 2 ≤ s.sp) : ∃ t, swap s = .done t ∧ swap t = .done s := by
  obtain ⟨a, b, rest, hs⟩ := exists_stk_eq_cons_cons h
  have hw' : (s.setStk (b :: a :: rest)).stackWf = true := by
    rw [State.stackWf, State.sp, hs] at hw
    exact hw
  refine ⟨s.setStk (b :: a :: rest), ?_, ?_⟩
  · rw [swap_eq hw, State.operand, State.operand, hs]
    rfl
  · rw [swap_eq hw']
    change Effect.done (s.setStk (a :: b :: rest)) = .done s
    rw [← hs, State.setStk_self]

/-- Settles O16: `SWAP` as the state with its two operands exchanged, advanced. -/
theorem swapExchangesTheTopTwo : Obligations.SwapExchangesTheTopTwo := by
  unfold Obligations.SwapExchangesTheTopTwo
  exact ⟨Laws.DecodeEncode.swap rfl false rfl, fun s hw => ⟨exec_swap hw, swap_swap hw⟩⟩

theorem exec_dup_of_room {s : State} (h : s.stackWf = true) (hf : s.full = false) :
    exec .dup s = .next (s.setStk (s.operand 0 :: s.operand 0 :: s.stk.drop 1)).advance := by
  rw [exec_eq_finish, operationEffect, duplicate_eq h hf, finish_done]

/-- Settles O17: `DUP` by the room on the stack. -/
theorem dupDuplicatesTheTop : Obligations.DupDuplicatesTheTop := by
  unfold Obligations.DupDuplicatesTheTop
  refine ⟨Laws.DecodeEncode.dup rfl false rfl, fun s hw => ⟨exec_dup_of_room hw, fun hf => ?_⟩⟩
  exact exec_of_overflow (duplicate_of_full hw hf)

/-! ### Input (44_system_io R125, R127) -/

/-- Settles O47: `INI` by the room on the stack and the token taken. -/
theorem iniTakesOneIntegerToken : Obligations.IniTakesOneIntegerToken := by
  unfold Obligations.IniTakesOneIntegerToken
  refine ⟨Laws.DecodeEncode.ini rfl false rfl, fun s => ⟨fun hf => ?_, fun n rest hf hi => ?_, fun rest hf hi => ?_⟩⟩
  · exact exec_of_overflow (inputInt_of_full hf)
  · exact exec_ini_take hf hi
  · exact exec_ini_take hf hi

/-- Settles O48: `INC` by the room on the stack and the token taken. -/
theorem incTakesOneCharacterToken : Obligations.IncTakesOneCharacterToken := by
  unfold Obligations.IncTakesOneCharacterToken
  refine ⟨Laws.DecodeEncode.inc rfl false rfl, fun s => ⟨fun hf => ?_, fun c rest hf hc => ?_, fun rest hf hc => ?_⟩⟩
  · exact exec_of_overflow (inputChar_of_full hf)
  · rw [← zextW_eq]
    exact exec_inc_take hf hc
  · exact exec_inc_take hf hc

/-! ### `EXIT` and `QUOTE` (44_system_io R120, R122) -/

theorem exec_exit (s : State) : exec .exit s = .next (s.setHalted true).advance := by
  rw [exec_eq_finish, operationEffect, finish_done]

/-- Settles O42: `EXIT` as the halted state, advanced. -/
theorem exitHaltsAndAdvances : Obligations.ExitHaltsAndAdvances := by
  unfold Obligations.ExitHaltsAndAdvances
  exact ⟨Laws.DecodeEncode.exit rfl false rfl, decode_true_of_ne_quote (by decide), exec_exit⟩

theorem exec_quote (s : State) : exec .quote s = .next (s.setStrmode (!s.strmode)).advance := by
  rw [exec_eq_finish, operationEffect, finish_done]

/-- Settles O44: `QUOTE` by the mode it finds. -/
theorem quoteFlipsStringMode : Obligations.QuoteFlipsStringMode := by
  unfold Obligations.QuoteFlipsStringMode
  refine ⟨Laws.DecodeEncode.quote rfl false rfl, Laws.DecodeEncode.quote rfl true rfl, fun s => ⟨fun h => ?_, fun h => ?_⟩⟩
  · rw [exec_quote, h]; rfl
  · rw [exec_quote, h]; rfl

/-! ### `UP`, `DOWN` and `RAND` (42_pc_control R104 to R106) -/

theorem State.advance_of_up {s : State} (h : s.dir = .up) : s.advance = { s with pcy := s.pcy + 24 } := by
  simp only [State.advance, h]

theorem State.advance_of_down {s : State} (h : s.dir = .down) : s.advance = { s with pcy := s.pcy + 1 } := by
  simp only [State.advance, h]

theorem exec_up (s : State) : exec .up s = .next (s.setDir .up).advance := by
  rw [exec_eq_finish, operationEffect, finish_done]

theorem exec_down (s : State) : exec .down s = .next (s.setDir .down).advance := by
  rw [exec_eq_finish, operationEffect, finish_done]

/-- `UP` in the top row wraps to the bottom row. -/
theorem exec_up_of_zero {s : State} (h : s.pcy = 0) : exec .up s = .next { s with dir := .up, pcy := 24 } := by
  rw [exec_up, State.advance_of_up (State.setDir_dir s .up), State.setDir_pcy, h]
  rfl

/-- `DOWN` in the bottom row wraps to the top row. -/
theorem exec_down_of_bottom {s : State} (h : s.pcy = 24) :
    exec .down s = .next { s with dir := .down, pcy := 0 } := by
  rw [exec_down, State.advance_of_down (State.setDir_dir s .down), State.setDir_pcy, h]
  rfl

/-- Settles O30: both as the state with the direction set, advanced, and the two corner cases of that. -/
theorem upAndDownSetTheDirection : Obligations.UpAndDownSetTheDirection := by
  unfold Obligations.UpAndDownSetTheDirection
  refine ⟨Laws.DecodeEncode.up rfl false rfl, Laws.DecodeEncode.down rfl false rfl,
    (decode_unknown_iff_listed 0x56).mpr (by decide), fun s => ?_⟩
  exact ⟨exec_up s, exec_down s, exec_up_of_zero, exec_down_of_bottom⟩

theorem Dir.ofCode_code (d : Dir) : Dir.ofCode d.code = d := by
  cases d <;> rfl

/-- Settles O31: `RAND` by whether the host has set a draw. -/
theorem randSetsTheDrawnDirection : Obligations.RandSetsTheDrawnDirection := by
  unfold Obligations.RandSetsTheDrawnDirection
  refine ⟨Laws.DecodeEncode.rand rfl false rfl, fun s r rest hr => ?_, fun s hr => ?_, ⟨rfl, rfl, rfl, rfl⟩,
    Dir.ofCode_code⟩
  · rw [exec_rand, drawDir, hr]; rfl
  · rw [exec_rand, drawDir, hr]; rfl

/-! ### Arithmetic (41_arithmetic R85 to R94) -/

/-- A two-operand instruction on a legal stack, given by its effect. -/
theorem exec_binary {i : Instr} {f : Word → Word → Word} {s : State} (hi : operationEffect i s = binary f s)
    (h : s.stackWf = true) :
    exec i s = .next (s.setStk (f (s.operand 1) (s.operand 0) :: s.stk.drop 2)).advance := by
  rw [exec_eq_finish, hi, binary_eq f h, finish_done]

theorem exec_add {s : State} (h : s.stackWf = true) :
    exec .add s = .next (s.setStk (addWords (s.operand 1) (s.operand 0) :: s.stk.drop 2)).advance :=
  exec_binary rfl h

theorem exec_sub {s : State} (h : s.stackWf = true) :
    exec .sub s = .next (s.setStk (subWords (s.operand 1) (s.operand 0) :: s.stk.drop 2)).advance :=
  exec_binary rfl h

theorem exec_mul {s : State} (h : s.stackWf = true) :
    exec .mul s = .next (s.setStk (mulWords (s.operand 1) (s.operand 0) :: s.stk.drop 2)).advance :=
  exec_binary rfl h

theorem exec_div {s : State} (h : s.stackWf = true) :
    exec .div s = .next (s.setStk (divWords (s.operand 1) (s.operand 0) :: s.stk.drop 2)).advance :=
  exec_binary rfl h

theorem exec_mod {s : State} (h : s.stackWf = true) :
    exec .mod s = .next (s.setStk (modWords (s.operand 1) (s.operand 0) :: s.stk.drop 2)).advance :=
  exec_binary rfl h

/-- Reducing a word's own value gives the word. -/
theorem wrapW_toInt (v : Word) : wrapW v.toInt = v := BitVec.ofInt_toInt

theorem addWords_zero_left (r : Word) : addWords 0 r = r := by
  rw [addWords, show (0 : Word).toInt = 0 from rfl, Int.zero_add, wrapW_toInt]

theorem subWords_zero_left (r : Word) : subWords 0 r = -r := by
  rw [subWords, show (0 : Word).toInt = 0 from rfl, Int.zero_sub, wrapW, BitVec.ofInt_neg, BitVec.ofInt_toInt]

theorem mulWords_zero_left (r : Word) : mulWords 0 r = 0 := by
  rw [mulWords, show (0 : Word).toInt = 0 from rfl, Int.zero_mul]
  rfl

/-- Settles O19: `ADD` as its operands replaced by `addWords` of them; a missing left operand is the phantom zero. -/
theorem addPushesTheWrappedSum : Obligations.AddPushesTheWrappedSum := by
  unfold Obligations.AddPushesTheWrappedSum
  refine ⟨Laws.DecodeEncode.add rfl false rfl, fun s h => ⟨exec_add h, fun hs => ?_, fun r hs => ?_⟩⟩
  · rw [exec_add h, State.operand_of_nil hs, State.operand_of_nil hs, addWords_zero_left, hs]
    rfl
  · rw [exec_add h, State.operand_one_of_singleton hs, State.operand_zero_of_singleton hs, addWords_zero_left, hs]
    rfl

/-- Settles O20: `SUB` as its operands replaced by `subWords` of them; a missing left operand is the phantom zero. -/
theorem subPushesTheWrappedDifference : Obligations.SubPushesTheWrappedDifference := by
  unfold Obligations.SubPushesTheWrappedDifference
  refine ⟨Laws.DecodeEncode.sub rfl false rfl, fun s h => ⟨exec_sub h, fun hs => ?_, fun r hs => ?_⟩⟩
  · rw [exec_sub h, State.operand_of_nil hs, State.operand_of_nil hs, subWords_zero_left, hs]
    rfl
  · rw [exec_sub h, State.operand_one_of_singleton hs, State.operand_zero_of_singleton hs, subWords_zero_left, hs]
    rfl

/-- With at most one cell the second operand is the phantom zero, and nothing lies below the two. -/
theorem operand_one_of_sp_le_one {s : State} (h : s.sp ≤ 1) : s.operand 1 = 0 ∧ s.stk.drop 2 = [] := by
  rw [State.sp] at h
  exact ⟨List.getD_eq_default _ _ h, List.drop_of_length_le (by omega)⟩

/-- Settles O21: `MUL` as its operands replaced by `mulWords` of them, which is 0 for the phantom zero. -/
theorem mulPushesTheWrappedProduct : Obligations.MulPushesTheWrappedProduct := by
  unfold Obligations.MulPushesTheWrappedProduct
  refine ⟨Laws.DecodeEncode.mul rfl false rfl, fun s h => ⟨exec_mul h, fun hs => ?_⟩⟩
  obtain ⟨h1, hd⟩ := operand_one_of_sp_le_one hs
  rw [exec_mul h, h1, hd, mulWords_zero_left]
  rfl

theorem divWords_of_ne_zero {rhs : Word} (h : rhs ≠ 0) (lhs : Word) :
    divWords lhs rhs = wrapW (lhs.toInt.tdiv rhs.toInt) := if_neg h

theorem divWords_zero_right (lhs : Word) : divWords lhs 0 = 0 := if_pos rfl

theorem modWords_zero_right (lhs : Word) : modWords lhs 0 = 0 := if_pos rfl

/-- What `MOD` computes is the remainder of the truncating division. -/
theorem modWords_of_ne_zero {rhs : Word} (h : rhs ≠ 0) (lhs : Word) :
    modWords lhs rhs = wrapW (lhs.toInt.tmod rhs.toInt) := by
  rw [modWords, if_neg h, Int.tmod_def]

/-- Settles O22: `DIV` by whether the divisor is 0. -/
theorem divPushesTheTruncatedQuotient : Obligations.DivPushesTheTruncatedQuotient := by
  unfold Obligations.DivPushesTheTruncatedQuotient
  refine ⟨Laws.DecodeEncode.div rfl false rfl, fun s h => ⟨fun h0 => ?_, fun h0 => ?_⟩⟩
  · rw [exec_div h, divWords_of_ne_zero h0]
    rfl
  · rw [exec_div h, h0, divWords_zero_right]
    rfl

/-- A value within 32 bits is not changed by the reduction. -/
theorem toInt_wrapW {n : Int} (h : -2147483648 ≤ n) (h' : n < 2147483648) : (wrapW n).toInt = n :=
  BitVec.toInt_ofInt_eq_self (by decide) (by omega) (by omega)

theorem word_toInt_bounds (v : Word) : -2147483648 ≤ v.toInt ∧ v.toInt < 2147483648 := by
  have hlo := BitVec.le_toInt v
  have hhi := BitVec.toInt_lt (x := v)
  omega

theorem toInt_ne_zero {v : Word} (h : v ≠ 0) : v.toInt ≠ 0 := fun h0 => h (BitVec.eq_of_toInt_eq h0)

theorem natAbs_tmod_lt {a b : Int} (h : b ≠ 0) : (a.tmod b).natAbs < b.natAbs := by
  rw [Int.natAbs_tmod]
  exact Nat.mod_lt _ (Int.natAbs_pos.mpr h)

/-- The remainder fits: it is no larger than the divisor. -/
theorem toInt_modWords {rhs : Word} (h : rhs ≠ 0) (lhs : Word) :
    (modWords lhs rhs).toInt = lhs.toInt.tmod rhs.toInt := by
  have hlt := natAbs_tmod_lt (a := lhs.toInt) (toInt_ne_zero h)
  obtain ⟨hlo, hhi⟩ := word_toInt_bounds rhs
  rw [modWords_of_ne_zero h, toInt_wrapW (by omega) (by omega)]

/-- Settles O23: `MOD` by whether the divisor is 0; the remainder fits in a word. -/
theorem modPushesTheTruncatedRemainder : Obligations.ModPushesTheTruncatedRemainder := by
  unfold Obligations.ModPushesTheTruncatedRemainder
  refine ⟨Laws.DecodeEncode.mod rfl false rfl, fun s h => ⟨fun h0 => ⟨_, ?_, exec_mod h⟩, fun h0 => ?_⟩⟩
  · rw [toInt_modWords h0, Int.tmod_def]
  · rw [exec_mod h, h0, modWords_zero_right]
    rfl

/-- The exact quotient fits in a word but for the one pair (the spec's decision D6). -/
theorem tdiv_bounds {lhs rhs : Word} (h : rhs ≠ 0) (hp : ¬ (lhs.toInt = -2147483648 ∧ rhs.toInt = -1)) :
    -2147483648 ≤ lhs.toInt.tdiv rhs.toInt ∧ lhs.toInt.tdiv rhs.toInt < 2147483648 := by
  obtain ⟨hlo, hhi⟩ := word_toInt_bounds lhs
  have hne := toInt_ne_zero h
  by_cases h1 : rhs.toInt = 1
  · rw [h1, Int.tdiv_one]; omega
  by_cases hm : rhs.toInt = -1
  · rw [hm, Int.tdiv_neg, Int.tdiv_one]; omega
  · have habs : (lhs.toInt.tdiv rhs.toInt).natAbs ≤ lhs.toInt.natAbs / 2 := by
      rw [Int.natAbs_tdiv]
      exact Nat.div_le_div_left (by omega) (by omega)
    omega

theorem toInt_divWords {lhs rhs : Word} (h : rhs ≠ 0) (hp : ¬ (lhs.toInt = -2147483648 ∧ rhs.toInt = -1)) :
    (divWords lhs rhs).toInt = lhs.toInt.tdiv rhs.toInt := by
  obtain ⟨hlo, hhi⟩ := tdiv_bounds h hp
  rw [divWords_of_ne_zero h, toInt_wrapW hlo hhi]

/-- The remainder is 0 or has the sign of the dividend. -/
theorem sign_tmod (a b : Int) : a.tmod b = 0 ∨ (0 < a.tmod b ∧ 0 < a) ∨ (a.tmod b < 0 ∧ a < 0) := by
  rcases lt_trichotomy a 0 with ha | rfl | ha
  · have hneg : 0 ≤ (-a).tmod b := Int.tmod_nonneg b (by omega)
    rw [Int.neg_tmod] at hneg
    omega
  · exact .inl (Int.zero_tmod b)
  · have hpos : 0 ≤ a.tmod b := Int.tmod_nonneg b (by omega)
    omega

/-- The pair whose quotient does not fit: it wraps to itself, and the remainder is 0 (the spec's decision D6). -/
theorem divWords_modWords_of_overflow {lhs rhs : Word} (hl : lhs.toInt = -2147483648) (hr : rhs.toInt = -1) :
    (divWords lhs rhs).toInt = -2147483648 ∧ modWords lhs rhs = 0 := by
  have h : rhs ≠ 0 := by rintro rfl; cases hr
  rw [divWords_of_ne_zero h, modWords_of_ne_zero h, hl, hr]
  decide

/-- Settles O24: the quotient and the remainder pushed are those of the truncating division, but for the one pair. -/
theorem quotientAndRemainderLaws : Obligations.QuotientAndRemainderLaws := by
  unfold Obligations.QuotientAndRemainderLaws
  intro s h h0
  refine ⟨_, _, exec_div h, exec_mod h, ?_, ?_, fun hp => ?_, divWords_modWords_of_overflow⟩
  · rw [toInt_modWords h0]
    exact natAbs_tmod_lt (toInt_ne_zero h0)
  · rw [toInt_modWords h0]
    exact sign_tmod _ _
  · rw [toInt_modWords h0, toInt_divWords h0 hp, Int.mul_comm]
    exact (Int.mul_tdiv_add_tmod _ _).symm

end Sys2Proof.Machine

namespace Sys2Proof.Machine

/-! ### The torus (42_pc_control R100, 10_state R13) -/

theorem val_add_one_wraps (x : Fin 80) : (x + 1).val = if x.val = 79 then 0 else x.val + 1 := by
  rw [Fin.val_add, show (1 : Fin 80).val = 1 from rfl]
  split <;> omega

theorem val_add_79_wraps (x : Fin 80) : (x + 79).val = if x.val = 0 then 79 else x.val - 1 := by
  rw [Fin.val_add, show (79 : Fin 80).val = 79 from rfl]
  split <;> omega

theorem val_add_24_wraps (y : Fin 25) : (y + 24).val = if y.val = 0 then 24 else y.val - 1 := by
  rw [Fin.val_add, show (24 : Fin 25).val = 24 from rfl]
  split <;> omega

theorem val_add_one_wraps_row (y : Fin 25) : (y + 1).val = if y.val = 24 then 0 else y.val + 1 := by
  rw [Fin.val_add, show (1 : Fin 25).val = 1 from rfl]
  split <;> omega

/-- Settles O27: the advance by direction; each of the four additions wraps at its edge. -/
theorem advanceMovesOneCellAndWraps : Obligations.AdvanceMovesOneCellAndWraps := by
  unfold Obligations.AdvanceMovesOneCellAndWraps
  refine fun s => ⟨fun h => ?_, fun h => ?_, fun h => ?_, fun h => ?_⟩
  · rw [State.advance_of_right h]; exact ⟨rfl, val_add_one_wraps _⟩
  · rw [State.advance_of_left h]; exact ⟨rfl, val_add_79_wraps _⟩
  · rw [State.advance_of_up h]; exact ⟨rfl, val_add_24_wraps _⟩
  · rw [State.advance_of_down h]; exact ⟨rfl, val_add_one_wraps_row _⟩

/-- Advances in one direction add up: `k` cells each along a row. -/
theorem advance_iterate_of_row {k : Fin 80} {s : State}
    (h : ∀ t : State, t.dir = s.dir → t.advance = { t with pcx := t.pcx + k }) (n : Nat) :
    State.advance^[n] s = { s with pcx := s.pcx + n • k } := by
  induction n with
  | zero => simp
  | succ n ih =>
    rw [Function.iterate_succ_apply', ih, succ_nsmul, ← add_assoc]
    exact h { s with pcx := s.pcx + n • k } rfl

/-- Advances in one direction add up: `k` cells each along a column. -/
theorem advance_iterate_of_column {k : Fin 25} {s : State}
    (h : ∀ t : State, t.dir = s.dir → t.advance = { t with pcy := t.pcy + k }) (n : Nat) :
    State.advance^[n] s = { s with pcy := s.pcy + n • k } := by
  induction n with
  | zero => simp
  | succ n ih =>
    rw [Function.iterate_succ_apply', ih, succ_nsmul, ← add_assoc]
    exact h { s with pcy := s.pcy + n • k } rfl

theorem setPcx_eq_self_iff {s : State} {d : Fin 80} : { s with pcx := s.pcx + d } = s ↔ d = 0 := by
  refine ⟨fun h => ?_, fun h => by rw [h, add_zero]⟩
  have hx : s.pcx + d = s.pcx := congrArg State.pcx h
  exact add_eq_left.mp hx

theorem setPcy_eq_self_iff {s : State} {d : Fin 25} : { s with pcy := s.pcy + d } = s ↔ d = 0 := by
  refine ⟨fun h => ?_, fun h => by rw [h, add_zero]⟩
  have hy : s.pcy + d = s.pcy := congrArg State.pcy h
  exact add_eq_left.mp hy

theorem fin_val_nsmul {m : Nat} [NeZero m] (n : Nat) (k : Fin m) : (n • k).val = n * k.val % m := by
  induction n with
  | zero => simp
  | succ n ih => rw [succ_nsmul, Fin.val_add, ih, Nat.mod_add_mod, Nat.succ_mul]

theorem nsmul_eq_zero_iff {m : Nat} [NeZero m] (n : Nat) (k : Fin m) : n • k = 0 ↔ n * k.val % m = 0 := by
  rw [← fin_val_nsmul, ← Fin.val_eq_zero_iff]

/-- Along a row of 80 cells, one cell or 79 cells at a time, the way round has 80 advances. -/
theorem advance_iterate_row_eq_self_iff {s : State} (h : s.dir = .right ∨ s.dir = .left) (n : Nat) :
    State.advance^[n] s = s ↔ n % 80 = 0 := by
  rcases h with h | h
  · rw [advance_iterate_of_row (fun t ht => State.advance_of_right (ht.trans h)), setPcx_eq_self_iff,
      nsmul_eq_zero_iff, show (1 : Fin 80).val = 1 from rfl]
    omega
  · rw [advance_iterate_of_row (fun t ht => State.advance_of_left (ht.trans h)), setPcx_eq_self_iff,
      nsmul_eq_zero_iff, show (79 : Fin 80).val = 79 from rfl]
    omega

/-- Along a column of 25 cells, one cell or 24 cells at a time, the way round has 25 advances. -/
theorem advance_iterate_column_eq_self_iff {s : State} (h : s.dir = .up ∨ s.dir = .down) (n : Nat) :
    State.advance^[n] s = s ↔ n % 25 = 0 := by
  rcases h with h | h
  · rw [advance_iterate_of_column (fun t ht => State.advance_of_up (ht.trans h)), setPcy_eq_self_iff,
      nsmul_eq_zero_iff, show (24 : Fin 25).val = 24 from rfl]
    omega
  · rw [advance_iterate_of_column (fun t ht => State.advance_of_down (ht.trans h)), setPcy_eq_self_iff,
      nsmul_eq_zero_iff, show (1 : Fin 25).val = 1 from rfl]
    omega

theorem Dir.up_or_down {d : Dir} (h : ¬ (d = .right ∨ d = .left)) : d = .up ∨ d = .down := by
  cases d with
  | right => exact absurd (.inl rfl) h
  | left => exact absurd (.inr rfl) h
  | up => exact .inl rfl
  | down => exact .inr rfl

/-- Settles O28: along a row or a column, by the sum of the advances modulo its length. -/
theorem advanceGoesRoundTheTorus : Obligations.AdvanceGoesRoundTheTorus := by
  unfold Obligations.AdvanceGoesRoundTheTorus
  intro s n
  split
  · next h => exact advance_iterate_row_eq_self_iff h n
  · next h => exact advance_iterate_column_eq_self_iff (Dir.up_or_down h) n

/-! ### Runs in string mode (40_stack R75, 30_encoding R53) -/

/-- The first `n` codes along the way of a state, the last on top. -/
def codesAlong (n : Nat) (s : State) : List Word :=
  ((List.range n).map fun j => BitVec.ofNat 32 (State.advance^[j] s).fetch.toNat).reverse

theorem codesAlong_succ (n : Nat) (s : State) :
    codesAlong (n + 1) s = BitVec.ofNat 32 (State.advance^[n] s).fetch.toNat :: codesAlong n s := by
  simp [codesAlong, List.range_succ]

theorem codesAlong_length (n : Nat) (s : State) : (codesAlong n s).length = n := by
  simp [codesAlong]

/-- What an advance keeps, any number of advances keep. -/
theorem advance_iterate_frame {α : Type} (f : State → α) (hf : ∀ t : State, f t.advance = f t) (n : Nat) (s : State) :
    f (State.advance^[n] s) = f s := by
  induction n with
  | zero => rfl
  | succ n ih => rw [Function.iterate_succ_apply', hf, ih]

theorem State.advance_setStk (s : State) (l : List Word) : (s.setStk l).advance = s.advance.setStk l := by
  unfold State.advance
  rw [State.setStk_dir]
  split <;> rfl

theorem State.advance_setBegun (s : State) (b : Bool) : (s.setBegun b).advance = s.advance.setBegun b := by
  unfold State.advance
  rw [State.setBegun_dir]
  split <;> rfl

theorem State.advance_setStrmode (s : State) (b : Bool) : (s.setStrmode b).advance = s.advance.setStrmode b := by
  unfold State.advance
  rw [State.setStrmode_dir]
  split <;> rfl

/-- Where a string run of `n` cells leaves the core: `n` advances on, with the codes pushed. -/
def afterString (n : Nat) (s : State) : State :=
  ((State.advance^[n] s).setStk (codesAlong n s ++ s.stk)).setBegun (s.begun || decide (0 < n))

theorem afterString_enabled (n : Nat) (s : State) : (afterString n s).enabled = s.enabled :=
  advance_iterate_frame State.enabled (fun t => by simp [State.enabled]) n s

theorem afterString_request (n : Nat) (s : State) : (afterString n s).request = s.request :=
  advance_iterate_frame State.request State.advance_request n s

theorem afterString_strmode (n : Nat) (s : State) : (afterString n s).strmode = s.strmode :=
  advance_iterate_frame State.strmode State.advance_strmode n s

theorem afterString_fetch (n : Nat) (s : State) : (afterString n s).fetch = (State.advance^[n] s).fetch := rfl

theorem afterString_not_full {n : Nat} {s : State} (h : ∀ d, s.depth = .cells d → s.sp + (n + 1) ≤ d) :
    (afterString n s).full = false := by
  have hdepth : (afterString n s).depth = s.depth := advance_iterate_frame State.depth State.advance_depth n s
  have hsp : (afterString n s).sp = n + s.sp := by
    change (codesAlong n s ++ s.stk).length = n + s.sp
    rw [List.length_append, codesAlong_length, State.sp]
  rw [State.full_eq_false_iff, hdepth, hsp]
  intro d hd
  have := h d hd
  omega

/-- One string step more. -/
theorem step_afterString {n : Nat} {s : State} (he : s.enabled = true) (hq : s.request = none)
    (hm : s.strmode = true) (hroom : ∀ d, s.depth = .cells d → s.sp + (n + 1) ≤ d)
    (hc : (State.advance^[n] s).fetch ≠ 0x22) : step (afterString n s) = .next (afterString (n + 1) s) := by
  rw [step_in_string ((afterString_enabled n s).trans he) ((afterString_request n s).trans hq)
    ((afterString_strmode n s).trans hm) hc (afterString_not_full hroom), afterString_fetch, State.advance_setStk,
    State.advance_setBegun, afterString, State.advance_setBegun, State.advance_setStk, afterString,
    Function.iterate_succ_apply', codesAlong_succ, decide_eq_true (Nat.succ_pos n), Bool.or_true]
  rfl

theorem runSteps_string {n : Nat} {s : State} (he : s.enabled = true) (hq : s.request = none)
    (hm : s.strmode = true) (hroom : ∀ d, s.depth = .cells d → s.sp + n ≤ d)
    (hc : ∀ j < n, (State.advance^[j] s).fetch ≠ 0x22) : runSteps n s = .next (afterString n s) := by
  induction n with
  | zero =>
    rw [runSteps_zero, afterString, decide_eq_false (Nat.lt_irrefl 0), Bool.or_false]
    rfl
  | succ n ih =>
    have hfirst := ih (fun d hd => (Nat.le_succ _).trans (hroom d hd)) fun j hj => hc j (by omega)
    rw [runSteps_add hfirst 1, runSteps_succ_of_next (step_afterString he hq hm hroom (hc n (by omega))),
      runSteps_zero]

/-- Settles O56: by induction on the number of steps, each of which pushes the code it fetches. -/
theorem stringRunPushesTheCodesInOrder : Obligations.StringRunPushesTheCodesInOrder := by
  unfold Obligations.StringRunPushesTheCodesInOrder
  intro n s hh hf hr hq hm hroom hc
  exact runSteps_string (State.enabled_iff.mpr ⟨hh, hf, hr⟩) hq hm hroom hc

/-! ### A quote alone on its row or column (70_reset_and_hazards R174) -/

/-- A step on a quote flips string mode. -/
theorem step_on_quote {s : State} (he : s.enabled = true) (hq : s.request = none) (hc : s.fetch = 0x22) :
    step s = .next ((s.setBegun true).setStrmode (!s.strmode)).advance := by
  have hd : decode s.strmode s.fetch = .operation .quote := hc ▸ Laws.DecodeEncode.quote rfl s.strmode rfl
  rw [step_of_operation he hq hd, exec_quote, State.setBegun_strmode]

/-- The state with a string opened: string mode on, in a run. -/
def State.inString (s : State) : State := (s.setBegun true).setStrmode true

theorem State.advance_inString (s : State) : s.inString.advance = s.advance.inString := by
  rw [State.inString, State.advance_setStrmode, State.advance_setBegun, State.inString]

theorem advance_iterate_inString (n : Nat) (s : State) :
    State.advance^[n] s.inString = (State.advance^[n] s).inString :=
  have h : Function.Semiconj State.inString State.advance State.advance := fun t => (State.advance_inString t).symm
  ((h.iterate_right n) s).symm

/-- After the way round less one cell the string holds the other codes, and the quote comes next. -/
theorem afterString_of_round {s : State} {n : Nat} (hround : State.advance^[n + 1] s = s) :
    afterString n s.advance.inString = s.inString.setStk (codesAlong n s.advance ++ s.stk) := by
  have hcodes : codesAlong n s.advance.inString = codesAlong n s.advance := by
    simp only [codesAlong, advance_iterate_inString]
    rfl
  have hstk : s.advance.inString.stk = s.stk := s.advance_stk
  have hbegun : s.advance.inString.begun = true := rfl
  rw [afterString, hcodes, hstk, hbegun, advance_iterate_inString, ← Function.iterate_succ_apply, hround, Bool.true_or]
  rfl

/-- The length of a row, or of a column, is a way round. -/
theorem advance_iterate_round {s : State} {n : Nat} (hn : n = if s.dir = .right ∨ s.dir = .left then 80 else 25) :
    State.advance^[n] s = s ∧ 1 ≤ n := by
  subst hn
  by_cases h : s.dir = .right ∨ s.dir = .left
  · rw [if_pos h, advance_iterate_row_eq_self_iff h]
    decide
  · rw [if_neg h, advance_iterate_column_eq_self_iff (Dir.up_or_down h)]
    decide

theorem State.setStrmode_eq_self {s : State} {b : Bool} (h : s.strmode = b) : s.setStrmode b = s := by
  rw [← h]
  rfl

/-- A quote that opens a string and comes round again after `n` other codes closes it. -/
theorem runSteps_lone_quote {s : State} {n : Nat} (hround : State.advance^[n + 1] s = s) (he : s.enabled = true)
    (hq : s.request = none) (hm : s.strmode = false) (hroom : ∀ d, s.depth = .cells d → s.sp + n ≤ d)
    (hquote : s.fetch = 0x22) (hother : ∀ j < n, (State.advance^[j + 1] s).fetch ≠ 0x22) :
    runSteps (n + 1 + 1) s =
      .next ((s.advance.setStk (codesAlong n s.advance ++ s.stk)).setBegun true) := by
  have hopen : step s = .next s.advance.inString := by
    rw [step_on_quote he hq hquote, hm, ← State.advance_inString]
    rfl
  have hstring : runSteps n s.advance.inString = .next (s.inString.setStk (codesAlong n s.advance ++ s.stk)) := by
    rw [← afterString_of_round hround]
    refine runSteps_string ?_ (by simpa [State.inString] using hq) rfl ?_ fun j hj => ?_
    · simpa [State.inString, State.enabled] using he
    · simpa [State.inString, State.sp] using hroom
    · rw [advance_iterate_inString, ← Function.iterate_succ_apply]
      exact hother j hj
  have hclose : step (s.inString.setStk (codesAlong n s.advance ++ s.stk)) = _ :=
    step_on_quote (s := s.inString.setStk (codesAlong n s.advance ++ s.stk)) he hq hquote
  rw [runSteps_succ_of_next hopen, runSteps_add hstring 1, runSteps_succ_of_next hclose, runSteps_zero]
  have hmode : ((s.advance.setStk (codesAlong n s.advance ++ s.stk)).setBegun true).setStrmode false =
      (s.advance.setStk (codesAlong n s.advance ++ s.stk)).setBegun true :=
    State.setStrmode_eq_self ((State.advance_strmode s).trans hm)
  rw [← hmode, State.advance_setStrmode, State.advance_setBegun, State.advance_setStk, State.advance_inString]
  rfl

/-- Settles O57: the quote opens the string, the string run goes once round, and the quote, come round again, closes
it. -/
theorem loneQuoteClosesItsOwnString : Obligations.LoneQuoteClosesItsOwnString := by
  unfold Obligations.LoneQuoteClosesItsOwnString
  intro s n hn hh hf hr hq hm hroom hquote hother
  obtain ⟨hround, hpos⟩ := advance_iterate_round hn
  obtain ⟨m, rfl⟩ : ∃ m, n = m + 1 := ⟨n - 1, by omega⟩
  exact runSteps_lone_quote hround (State.enabled_iff.mpr ⟨hh, hf, hr⟩) hq hm hroom hquote
    fun j hj => hother (j + 1) (by omega) (by omega)

end Sys2Proof.Machine

namespace Sys2Proof.Machine

/-! ### The text of the output (44_system_io R126) -/

theorem digitCode_toNat {n : Nat} (h : n < 10) : (digitCode n).toNat = 0x30 + n := by
  rw [digitCode, BitVec.toNat_ofNat]
  omega

theorem decimalDigits_of_lt {n : Nat} (h : n < 10) (fuel : Nat) : decimalDigits (fuel + 1) n = [digitCode n] := by
  rw [decimalDigits, if_pos h]

theorem decimalDigits_of_ge {n : Nat} (h : ¬ n < 10) (fuel : Nat) :
    decimalDigits (fuel + 1) n = decimalDigits fuel (n / 10) ++ [digitCode (n % 10)] := by
  rw [decimalDigits, if_neg h]

/-- Every character of the digits is a decimal digit. -/
theorem mem_decimalDigits {fuel n : Nat} : ∀ b ∈ decimalDigits fuel n, 0x30 ≤ b.toNat ∧ b.toNat ≤ 0x39 := by
  induction fuel generalizing n with
  | zero => exact fun b hb => nomatch hb
  | succ fuel ih =>
    by_cases h : n < 10
    · rw [decimalDigits_of_lt h]
      intro b hb
      rw [List.mem_singleton.mp hb, digitCode_toNat h]
      omega
    · rw [decimalDigits_of_ge h]
      intro b hb
      rcases List.mem_append.mp hb with hb | hb
      · exact ih b hb
      · rw [List.mem_singleton.mp hb, digitCode_toNat (Nat.mod_lt n (by omega))]
        omega

/-- The number that decimal digits stand for. -/
def readDigits (l : List Byte) : Nat := l.foldl (fun n b => 10 * n + (b.toNat - 0x30)) 0

theorem readDigits_concat (l : List Byte) (b : Byte) : readDigits (l ++ [b]) = 10 * readDigits l + (b.toNat - 0x30) := by
  rw [readDigits, List.foldl_append]
  rfl

/-- With enough of them the digits read back as the number. -/
theorem readDigits_decimalDigits {fuel n : Nat} (hn : n < 10 ^ fuel) : readDigits (decimalDigits fuel n) = n := by
  induction fuel generalizing n with
  | zero => rw [Nat.pow_zero, Nat.lt_one_iff] at hn; rw [hn]; rfl
  | succ fuel ih =>
    by_cases h : n < 10
    · rw [decimalDigits_of_lt h, ← List.nil_append [_], readDigits_concat, digitCode_toNat h, readDigits,
        List.foldl_nil]
      omega
    · have hq : n / 10 < 10 ^ fuel := Nat.div_lt_of_lt_mul (by rwa [Nat.pow_succ'] at hn)
      rw [decimalDigits_of_ge h, readDigits_concat, ih hq, digitCode_toNat (Nat.mod_lt n (by omega))]
      omega

/-- There is at least one digit, and no more than asked for. -/
theorem decimalDigits_length (fuel n : Nat) :
    1 ≤ (decimalDigits (fuel + 1) n).length ∧ (decimalDigits (fuel + 1) n).length ≤ fuel + 1 := by
  induction fuel generalizing n with
  | zero => by_cases h : n < 10 <;> simp [decimalDigits, h]
  | succ fuel ih =>
    by_cases h : n < 10
    · rw [decimalDigits_of_lt h, List.length_singleton]
      omega
    · rw [decimalDigits_of_ge h, List.length_append, List.length_singleton]
      have := ih (n / 10)
      omega

/-- A leading zero is that of 0 itself. -/
theorem eq_zero_of_head_zero {fuel n : Nat} (hn : n < 10 ^ fuel) (h0 : (decimalDigits fuel n).head? = some 0x30) :
    n = 0 := by
  induction fuel generalizing n with
  | zero => cases h0
  | succ fuel ih =>
    by_cases h : n < 10
    · rw [decimalDigits_of_lt h, List.head?_cons, Option.some.injEq] at h0
      have := digitCode_toNat h
      rw [h0, show (0x30 : Byte).toNat = 0x30 from rfl] at this
      omega
    · have hq : n / 10 < 10 ^ fuel := Nat.div_lt_of_lt_mul (by rwa [Nat.pow_succ'] at hn)
      cases fuel with
      | zero => rw [Nat.pow_zero] at hq; omega
      | succ fuel =>
        have hne : decimalDigits (fuel + 1) (n / 10) ≠ [] :=
          List.ne_nil_of_length_pos (decimalDigits_length fuel (n / 10)).1
        rw [decimalDigits_of_ge h, List.head?_append_of_ne_nil _ hne] at h0
        have := ih hq h0
        omega

/-- The text of an integer: the sign of a negative one, then its digits. -/
theorem decimal_eq (v : Word) :
    decimal v = (if v.toInt < 0 then [0x2D] else []) ++ decimalDigits 10 v.toInt.natAbs := by
  rw [decimal]
  split <;> rfl

theorem natAbs_toInt_lt (v : Word) : v.toInt.natAbs < 10 ^ 10 := by
  have := word_toInt_bounds v
  omega

/-- A value in 0..255 is its own low byte. -/
theorem lowByte_of_nonneg {v : Word} (h : 0 ≤ v.toInt) : lowByte v = BitVec.ofNat 8 v.toInt.toNat := by
  have hv : v.toInt = v.toNat := by
    rw [BitVec.toInt_eq_toNat_cond] at h ⊢
    split at h
    · rw [if_pos ‹_›]
    · have := v.isLt
      omega
  rw [hv, Int.toNat_natCast, BitVec.ofNat_toNat, lowByte]

theorem OutToken.render_char {v : Word} (h : 0 ≤ v.toInt) (h' : v.toInt ≤ 255) :
    (OutToken.char v).render = some [BitVec.ofNat 8 v.toInt.toNat] := by
  rw [OutToken.render, if_pos ⟨h, h'⟩, lowByte_of_nonneg h]

theorem renderAll_append (a b : List OutToken) :
    renderAll (a ++ b) = (renderAll a).bind fun x => (renderAll b).map fun y => x ++ y := by
  induction a with
  | nil => simp [renderAll]
  | cons t a ih =>
    rw [List.cons_append, renderAll, renderAll, ih]
    cases t.render with
    | none => rfl
    | some x => cases renderAll a <;> cases renderAll b <;> simp

/-- Settles O59: the digits by induction on their number, the rest of the text by its definition. -/
theorem renderedTextReadsBack : Obligations.RenderedTextReadsBack := by
  unfold Obligations.RenderedTextReadsBack
  refine ⟨fun v => ⟨decimalDigits 10 v.toInt.natAbs, ?_, mem_decimalDigits, ?_, fun h0 => ?_,
    (decimalDigits_length 9 _).1, (decimalDigits_length 9 _).2⟩, fun v => OutToken.render_char, renderAll_append⟩
  · rw [OutToken.render_int, decimal_eq]
  · exact readDigits_decimalDigits (natAbs_toInt_lt v)
  · rw [eq_zero_of_head_zero (natAbs_toInt_lt v) h0]
    rfl

/-! ### The output history (10_state R21, R24) -/

/-- The state with tokens put before its output. -/
def State.withEarlier (earlier : List OutToken) (s : State) : State := { s with out := earlier ++ s.out }

/-- The effect with tokens put before the output it leaves. -/
def Effect.withEarlier (earlier : List OutToken) : Effect → Effect
  | .done s => .done (s.withEarlier earlier)
  | .raised k => .raised k
  | .held k => .held k

/-- The answer with tokens put before the output it leaves. -/
def outcomeWithEarlier (earlier : List OutToken) :
    Host.Outcome State Fault Refusal → Host.Outcome State Fault Refusal
  | .next s => .next (s.withEarlier earlier)
  | .fault r => .fault r
  | .refused r => .refused r

theorem State.advance_withEarlier (e : List OutToken) (s : State) :
    (s.withEarlier e).advance = s.advance.withEarlier e := by
  unfold State.advance
  rw [show (s.withEarlier e).dir = s.dir from rfl]
  split <;> rfl

theorem finish_withEarlier (e : List OutToken) (c : Byte) (s : State) (x : Effect) :
    finish c (s.withEarlier e) (x.withEarlier e) = outcomeWithEarlier e (finish c s x) := by
  cases x with
  | done t => rw [Effect.withEarlier, finish_done, State.advance_withEarlier]; rfl
  | raised k => rfl
  | held k => rfl

theorem push_withEarlier (e : List OutToken) (v : Word) (s : State) :
    push v (s.withEarlier e) = (push v s).withEarlier e := by
  have hf : (s.withEarlier e).full = s.full := rfl
  cases h : s.full with
  | false => rw [push_of_not_full v h, push_of_not_full v (hf.trans h)]; rfl
  | true => rw [push_of_full v h, push_of_full v (hf.trans h)]; rfl

theorem pop_withEarlier (e : List OutToken) (s : State) :
    pop (s.withEarlier e) = ((pop s).1, (pop s).2.withEarlier e) := by
  rw [pop_eq, pop_eq]
  rfl

theorem Effect.andThen_withEarlier (e : List OutToken) (x : Effect) (f : State → Effect)
    (hf : ∀ s, f (s.withEarlier e) = (f s).withEarlier e) :
    (x.withEarlier e).andThen f = (x.andThen f).withEarlier e := by
  cases x with
  | done s => exact hf s
  | raised k => rfl
  | held k => rfl

theorem binary_withEarlier (e : List OutToken) (f : Word → Word → Word) (s : State) :
    binary f (s.withEarlier e) = (binary f s).withEarlier e := by
  simp only [binary, pop_withEarlier, push_withEarlier]

theorem unary_withEarlier (e : List OutToken) (f : Word → Word) (s : State) :
    unary f (s.withEarlier e) = (unary f s).withEarlier e := by
  simp only [unary, pop_withEarlier, push_withEarlier]

theorem swap_withEarlier (e : List OutToken) (s : State) : swap (s.withEarlier e) = (swap s).withEarlier e := by
  simp only [swap, pop_withEarlier, push_withEarlier]
  exact Effect.andThen_withEarlier e _ _ (push_withEarlier e _)

theorem duplicate_withEarlier (e : List OutToken) (s : State) :
    duplicate (s.withEarlier e) = (duplicate s).withEarlier e := by
  simp only [duplicate, pop_withEarlier, push_withEarlier]
  exact Effect.andThen_withEarlier e _ _ (push_withEarlier e _)

theorem gridGet_withEarlier (e : List OutToken) (s : State) :
    gridGet (s.withEarlier e) = (gridGet s).withEarlier e := by
  simp only [gridGet, pop_withEarlier]
  split
  · rfl
  · exact push_withEarlier e _ _

theorem gridPut_withEarlier (e : List OutToken) (s : State) :
    gridPut (s.withEarlier e) = (gridPut s).withEarlier e := by
  simp only [gridPut, pop_withEarlier]
  split <;> rfl

theorem inputInt_withEarlier (e : List OutToken) (s : State) :
    inputInt (s.withEarlier e) = (inputInt s).withEarlier e := by
  have hf : (s.withEarlier e).full = s.full := rfl
  rcases inputInt_cases s with ⟨h, x⟩ | ⟨h, hi, x⟩ | ⟨h, t, rest, hi, x⟩
  · rw [x, inputInt_of_full (hf.trans h)]; rfl
  · rw [x, inputInt_hold (hf.trans h) hi]; rfl
  · rw [x, inputInt_take (s := s.withEarlier e) (hf.trans h) hi]; rfl

theorem inputChar_withEarlier (e : List OutToken) (s : State) :
    inputChar (s.withEarlier e) = (inputChar s).withEarlier e := by
  have hf : (s.withEarlier e).full = s.full := rfl
  rcases inputChar_cases s with ⟨h, x⟩ | ⟨h, hi, x⟩ | ⟨h, t, rest, hi, x⟩
  · rw [x, inputChar_of_full (hf.trans h)]; rfl
  · rw [x, inputChar_hold (hf.trans h) hi]; rfl
  · rw [x, inputChar_take (s := s.withEarlier e) (hf.trans h) hi]; rfl

theorem popToToken_withEarlier (e : List OutToken) (f : Word → OutToken) (s : State) :
    popToToken f (s.withEarlier e) = (popToToken f s).withEarlier e := by
  rw [popToToken_eq, popToToken_eq, Effect.withEarlier]
  exact congrArg (fun l => Effect.done { (s.setStk (s.stk.drop 1)) with out := l }) (List.append_assoc _ _ _)

theorem popToDir_withEarlier (e : List OutToken) (f : Word → Dir) (s : State) :
    popToDir f (s.withEarlier e) = (popToDir f s).withEarlier e := by
  rw [popToDir_eq, popToDir_eq]
  rfl

theorem drawDir_withEarlier (e : List OutToken) (s : State) :
    drawDir (s.withEarlier e) = ((drawDir s).1, (drawDir s).2.withEarlier e) := by
  unfold drawDir
  rw [show (s.withEarlier e).rnd = s.rnd from rfl]
  split <;> rfl

/-- No operation reads the output. -/
theorem operationEffect_withEarlier (e : List OutToken) (i : Instr) (s : State) :
    operationEffect i (s.withEarlier e) = (operationEffect i s).withEarlier e := by
  cases i with
  | exit | blank | right | left | up | down | quote => rfl
  | pop => rw [operationEffect, pop_withEarlier]; rfl
  | outc | outi => exact popToToken_withEarlier e _ s
  | hif | vif => rw [operationEffect, popToDir_withEarlier, operationEffect]
  | rand => rw [operationEffect, drawDir_withEarlier]; rfl
  | bridge => rw [operationEffect, State.advance_withEarlier]; rfl
  | swap => exact swap_withEarlier e s
  | dup => exact duplicate_withEarlier e s
  | add | sub | mul | div | mod => exact binary_withEarlier e _ s
  | gt => rw [operationEffect, binary_withEarlier, operationEffect]
  | not => rw [operationEffect, unary_withEarlier, operationEffect]
  | pushd | strpush => exact push_withEarlier e _ s
  | get => exact gridGet_withEarlier e s
  | put => exact gridPut_withEarlier e s
  | ini => exact inputInt_withEarlier e s
  | inc => exact inputChar_withEarlier e s

theorem exec_withEarlier (e : List OutToken) (i : Instr) (s : State) :
    exec i (s.withEarlier e) = outcomeWithEarlier e (exec i s) := by
  rw [exec_eq_finish, exec_eq_finish, operationEffect_withEarlier, finish_withEarlier]

/-- A step with any tokens before the output so far does the same. -/
theorem step_withEarlier (e : List OutToken) (s : State) :
    step (s.withEarlier e) = outcomeWithEarlier e (step s) := by
  have he : (s.withEarlier e).enabled = s.enabled := rfl
  have hb : (s.withEarlier e).setBegun true = (s.setBegun true).withEarlier e := rfl
  cases h : s.enabled with
  | false => rw [step_of_not_enabled h, step_of_not_enabled (he.trans h)]; rfl
  | true =>
    cases hr : s.request with
    | some k => rw [step_of_request h hr, step_of_request (he.trans h) hr, hb, exec_withEarlier]
    | none =>
      cases hd : decode s.strmode s.fetch with
      | operation i =>
        rw [step_of_operation h hr hd, step_of_operation (s := s.withEarlier e) (he.trans h) hr hd, hb,
          exec_withEarlier]
      | unknownInstruction c =>
        rw [step_of_unknown h hr hd, step_of_unknown (s := s.withEarlier e) (he.trans h) hr hd]
        rfl

/-- Settles O55: no operation, and so no step, reads the output history. -/
theorem outputHistoryDoesNotInfluenceTheRun : Obligations.OutputHistoryDoesNotInfluenceTheRun := by
  unfold Obligations.OutputHistoryDoesNotInfluenceTheRun
  intro s t earlier h
  exact (step_withEarlier earlier s).trans (congrArg (outcomeWithEarlier earlier) h)

end Sys2Proof.Machine
